-- ==== Sys2Proof/Word.lean ====
section
/-! DEFINITION. The widths of the core: bytes, 16-bit words, and the fields of an instruction word
(00_scope.md R6, R7; 30_encoding.md R71). All quantities are unsigned. -/

namespace Sys2Proof

/-- A byte: a general register, a timer, a byte of memory (R20, R34, R28). -/
abbrev Byte := BitVec 8

/-- A 16-bit word: an instruction word, PC, I, a stack entry (R70, R24, R23, R26). -/
abbrev Word := BitVec 16

/-- A 4-bit field: a register index X or Y, or the count N (R71). -/
abbrev Nibble := BitVec 4

/-- A 12-bit immediate address NNN (R71, R73). -/
abbrev Addr := BitVec 12

/-- `zext_16` (R8): widen with zeros to 16 bits. -/
abbrev zext16 {w : Nat} (v : BitVec w) : Word := v.setWidth 16

end Sys2Proof
end

