-- ==== Sys2Proof/Config.lean ====
section
/-! DEFINITION. What is fixed for the machine: the sizes of R6, the three open parameters of the spec
(`shift_quirk`, `IPS`, `FONT`; R37, R38, R29) as one record, and the free value CXNN draws (R132). -/

namespace Sys2Proof

namespace Config

/-- `MEM_SIZE`, the memory capacity in bytes (R6, R28). -/
abbrev memSize : Nat := 4096

/-- The last address an instruction word may start at (R54). -/
abbrev lastFetch : Nat := 0xFFE

/-- `PROG_BASE`: the load address and the reset value of PC (R6, R191). -/
abbrev progBase : Nat := 0x200

/-- Bytes of the fontset, at 0x000 to 0x04F (R6, R29). -/
abbrev fontBytes : Nat := 80

/-- The largest program `load` accepts: capacity minus 0x200 (R195). -/
abbrev maxProgram : Nat := memSize - progBase

/-- Framebuffer columns and rows (R6, R30). -/
abbrev fbW : Nat := 64
abbrev fbH : Nat := 32

/-- Entries of the call stack (R6, R26). -/
abbrev stackDepth : Nat := 16

/-- The random bytes of CXNN (R132, R41, D24): "a draw under no law". FREE VALUE: the n-th byte drawn is
`freeByte n`, a constant without a body, so nothing can be proved of its value (log 5). -/
opaque freeByte : Nat → Byte

end Config

/-- The configuration of one machine, "set once at configuration time, read-only during execution"
(R37, R38, R29). Every statement over all states holds for every value of it (log 2). -/
structure Configuration where
  /-- `shift_quirk` (R37): true makes 8XY6 and 8XYE shift VX itself. -/
  shiftQuirk : Bool
  /-- `IPS` (R38): instructions per second, read by the scheduler only. -/
  ips : Nat
  /-- `FONT` (R29): the 80 bytes that memory 0x000 to 0x04F holds after reset. -/
  font : Vector Byte 80
  deriving DecidableEq, Repr

/-- PRESUMED (the spec's own mark: from general knowledge): the default value of `FONT`, the table of
R29, one glyph of five bytes a line (log 4). -/
def Config.defaultFont : Vector Byte 80 := #v[
  0xF0, 0x90, 0x90, 0x90, 0xF0,
  0x20, 0x60, 0x20, 0x20, 0x70,
  0xF0, 0x10, 0xF0, 0x80, 0xF0,
  0xF0, 0x10, 0xF0, 0x10, 0xF0,
  0x90, 0x90, 0xF0, 0x10, 0x10,
  0xF0, 0x80, 0xF0, 0x10, 0xF0,
  0xF0, 0x80, 0xF0, 0x90, 0xF0,
  0xF0, 0x10, 0x20, 0x40, 0x40,
  0xF0, 0x90, 0xF0, 0x90, 0xF0,
  0xF0, 0x90, 0xF0, 0x10, 0xF0,
  0xF0, 0x90, 0xF0, 0x90, 0x90,
  0xE0, 0x90, 0xE0, 0x90, 0xE0,
  0xF0, 0x80, 0x80, 0x80, 0xF0,
  0xE0, 0x90, 0x90, 0x90, 0xE0,
  0xF0, 0x80, 0xF0, 0x80, 0xF0,
  0xF0, 0x80, 0xF0, 0x80, 0x80]

/-- DESIGN CHOICE: the configuration `State.reset` stands under. The spec gives no value for
`shift_quirk` and `IPS` (D25, D26): false, and the 120 of its vector P6 (log 3); `FONT` is the spec's
default table (log 4). -/
def Config.standard : Configuration :=
  ⟨false, 120, Config.defaultFont⟩

end Sys2Proof
end

