-- ==== Sys2Proof/Syntax.lean ====
section
/-! DEFINITION. The instruction set: one constructor per row of spec/opcode_table.json, 34 in all
(30_encoding.md R75, R76). Operands are typed at the width of their field (R71), so a register index is
always 0 to 15 (R20). -/

namespace Sys2Proof

/-- The 34 instructions of R75. `x`, `y` are register indices, `nn` an 8-bit immediate, `nnn` a 12-bit
immediate, `n` the sprite height (R71, R73). -/
inductive Instr where
  /-- 00E0, CLS (R150) -/
  | cls
  /-- 00EE, RET (R100) -/
  | ret
  /-- 1NNN, JP nnn (R101) -/
  | jp (nnn : Addr)
  /-- 2NNN, CALL nnn (R102) -/
  | call (nnn : Addr)
  /-- 3XNN, SE Vx, nn (R103) -/
  | seImm (x : Nibble) (nn : Byte)
  /-- 4XNN, SNE Vx, nn (R104) -/
  | sneImm (x : Nibble) (nn : Byte)
  /-- 5XY0, SE Vx, Vy (R105) -/
  | seReg (x y : Nibble)
  /-- 6XNN, LD Vx, nn (R120) -/
  | ldImm (x : Nibble) (nn : Byte)
  /-- 7XNN, ADD Vx, nn (R121) -/
  | addImm (x : Nibble) (nn : Byte)
  /-- 8XY0, LD Vx, Vy (R122) -/
  | ldReg (x y : Nibble)
  /-- 8XY1, OR Vx, Vy (R123) -/
  | orReg (x y : Nibble)
  /-- 8XY2, AND Vx, Vy (R124) -/
  | andReg (x y : Nibble)
  /-- 8XY3, XOR Vx, Vy (R125) -/
  | xorReg (x y : Nibble)
  /-- 8XY4, ADD Vx, Vy (R126) -/
  | addReg (x y : Nibble)
  /-- 8XY5, SUB Vx, Vy (R127) -/
  | subReg (x y : Nibble)
  /-- 8XY6, SHR Vx, Vy (R128) -/
  | shr (x y : Nibble)
  /-- 8XY7, SUBN Vx, Vy (R129) -/
  | subnReg (x y : Nibble)
  /-- 8XYE, SHL Vx, Vy (R130) -/
  | shl (x y : Nibble)
  /-- 9XY0, SNE Vx, Vy (R106) -/
  | sneReg (x y : Nibble)
  /-- ANNN, LD I, nnn (R140) -/
  | ldI (nnn : Addr)
  /-- BNNN, JP V0, nnn (R107) -/
  | jpV0 (nnn : Addr)
  /-- CXNN, RND Vx, nn (R132) -/
  | rnd (x : Nibble) (nn : Byte)
  /-- DXYN, DRW Vx, Vy, n (R151) -/
  | drw (x y n : Nibble)
  /-- EX9E, SKP Vx (R160) -/
  | skp (x : Nibble)
  /-- EXA1, SKNP Vx (R161) -/
  | sknp (x : Nibble)
  /-- FX07, LD Vx, DT (R162) -/
  | ldVxDt (x : Nibble)
  /-- FX0A, LD Vx, K (R165) -/
  | ldVxK (x : Nibble)
  /-- FX15, LD DT, Vx (R163) -/
  | ldDtVx (x : Nibble)
  /-- FX18, LD ST, Vx (R164) -/
  | ldStVx (x : Nibble)
  /-- FX1E, ADD I, Vx (R141) -/
  | addI (x : Nibble)
  /-- FX29, LD F, Vx (R142) -/
  | ldF (x : Nibble)
  /-- FX33, LD B, Vx (R143) -/
  | ldB (x : Nibble)
  /-- FX55, LD [I], Vx (R144) -/
  | storeRegs (x : Nibble)
  /-- FX65, LD Vx, [I] (R145) -/
  | loadRegs (x : Nibble)
  deriving DecidableEq, Repr

end Sys2Proof
end

