-- ==== Sys2Proof/WellFormed.lean ====
section
/-! DEFINITION. Well-formedness checks. Of an INSTRUCTION there is nothing to check: every operand of
`Instr` has exactly the width of its field (R71; R20: "no register-index fault exists"), so every term
is well formed, and statements about well-formed instructions quantify over all of `Instr`. Of a PROGRAM
IMAGE the spec has one check, its size (70_reset_and_hazards.md R195;
93_implementation_defined.md U3: "Make n <= 3584 a well-formedness check of the program"). -/

namespace Sys2Proof

/-- A program image: the raw bytes `load` copies to 0x200 upward, "no header, no validation" (R194). -/
abbrev Program := List Byte

/-- R195: a program fits if its size does not exceed capacity minus 0x200, that is 3584 bytes. -/
def Program.wellFormed (p : Program) : Bool := p.length ≤ Config.maxProgram

end Sys2Proof
end

