-- ==== Sys2Proof/Decode.lean ====
section
/-! DEFINITION. The opcode map of 30_encoding.md R75, the decoder (R74, R80, R92), the encoder, and the
two byte orders: instruction bytes as memory holds them (R53) and the numbering of
spec/opcode_table.json. Decoding is a pure function of the 16-bit word (R92). -/

namespace Sys2Proof

/-! ### Fields of an instruction word (R71) -/

/-- T, bits 15 to 12: the family. -/
def opT (op : Word) : Nibble := op.extractLsb' 12 4
/-- X, bits 11 to 8. -/
def opX (op : Word) : Nibble := op.extractLsb' 8 4
/-- Y, bits 7 to 4. -/
def opY (op : Word) : Nibble := op.extractLsb' 4 4
/-- N, bits 3 to 0. -/
def opN (op : Word) : Nibble := op.extractLsb' 0 4
/-- NN, bits 7 to 0. -/
def opNN (op : Word) : Byte := op.extractLsb' 0 8
/-- NNN, bits 11 to 0. -/
def opNNN (op : Word) : Addr := op.extractLsb' 0 12

/-! ### The decoder: two levels (R74) -/

/-- Family 0 (R79): only the full words 00E0 and 00EE; bits 11 to 8 must be 0 (D22), 0NNN is no
instruction (D23). -/
def decode0 (op : Word) : Option Instr :=
  if opNNN op = 0x0E0#12 then some .cls
  else if opNNN op = 0x0EE#12 then some .ret
  else none

/-- Family 8 (R77): the low nibble selects; 8, 9, A, B, C, D and F select nothing. -/
def decode8 (op : Word) : Option Instr :=
  match (opN op).toNat with
  | 0x0 => some (.ldReg (opX op) (opY op))
  | 0x1 => some (.orReg (opX op) (opY op))
  | 0x2 => some (.andReg (opX op) (opY op))
  | 0x3 => some (.xorReg (opX op) (opY op))
  | 0x4 => some (.addReg (opX op) (opY op))
  | 0x5 => some (.subReg (opX op) (opY op))
  | 0x6 => some (.shr (opX op) (opY op))
  | 0x7 => some (.subnReg (opX op) (opY op))
  | 0xE => some (.shl (opX op) (opY op))
  | _ => none

/-- Family E (R78): the low byte selects. -/
def decodeE (op : Word) : Option Instr :=
  match (opNN op).toNat with
  | 0x9E => some (.skp (opX op))
  | 0xA1 => some (.sknp (opX op))
  | _ => none

/-- Family F (R78): the low byte selects. -/
def decodeF (op : Word) : Option Instr :=
  match (opNN op).toNat with
  | 0x07 => some (.ldVxDt (opX op))
  | 0x0A => some (.ldVxK (opX op))
  | 0x15 => some (.ldDtVx (opX op))
  | 0x18 => some (.ldStVx (opX op))
  | 0x1E => some (.addI (opX op))
  | 0x29 => some (.ldF (opX op))
  | 0x33 => some (.ldB (opX op))
  | 0x55 => some (.storeRegs (opX op))
  | 0x65 => some (.loadRegs (opX op))
  | _ => none

/-- R74, R92: the instruction a word stands for; `none` is an unrecognised word (R80). Families 5 and 9
require N = 0 (D22). -/
def decode (op : Word) : Option Instr :=
  match (opT op).toNat with
  | 0x0 => decode0 op
  | 0x1 => some (.jp (opNNN op))
  | 0x2 => some (.call (opNNN op))
  | 0x3 => some (.seImm (opX op) (opNN op))
  | 0x4 => some (.sneImm (opX op) (opNN op))
  | 0x5 => if opN op = 0#4 then some (.seReg (opX op) (opY op)) else none
  | 0x6 => some (.ldImm (opX op) (opNN op))
  | 0x7 => some (.addImm (opX op) (opNN op))
  | 0x8 => decode8 op
  | 0x9 => if opN op = 0#4 then some (.sneReg (opX op) (opY op)) else none
  | 0xA => some (.ldI (opNNN op))
  | 0xB => some (.jpV0 (opNNN op))
  | 0xC => some (.rnd (opX op) (opNN op))
  | 0xD => some (.drw (opX op) (opY op) (opN op))
  | 0xE => decodeE op
  | 0xF => decodeF op
  | _ => none

/-! ### The encoder: the formats of R72, from the table of R75 -/

/-- Format A: T, NNN. -/
def formatA (t : Nibble) (nnn : Addr) : Word := t ++ nnn
/-- Formats I and F: T, X, and a low byte (an immediate or a selector). -/
def formatI (t x : Nibble) (nn : Byte) : Word := t ++ (x ++ nn)
/-- Formats R and D: T, X, Y, and a low nibble (a selector or N). -/
def formatR (t x y n : Nibble) : Word := t ++ (x ++ (y ++ n))

/-- The word of an instruction (R75). -/
def encode : Instr → Word
  | .cls => formatA 0x0 0x0E0
  | .ret => formatA 0x0 0x0EE
  | .jp nnn => formatA 0x1 nnn
  | .call nnn => formatA 0x2 nnn
  | .seImm x nn => formatI 0x3 x nn
  | .sneImm x nn => formatI 0x4 x nn
  | .seReg x y => formatR 0x5 x y 0x0
  | .ldImm x nn => formatI 0x6 x nn
  | .addImm x nn => formatI 0x7 x nn
  | .ldReg x y => formatR 0x8 x y 0x0
  | .orReg x y => formatR 0x8 x y 0x1
  | .andReg x y => formatR 0x8 x y 0x2
  | .xorReg x y => formatR 0x8 x y 0x3
  | .addReg x y => formatR 0x8 x y 0x4
  | .subReg x y => formatR 0x8 x y 0x5
  | .shr x y => formatR 0x8 x y 0x6
  | .subnReg x y => formatR 0x8 x y 0x7
  | .shl x y => formatR 0x8 x y 0xE
  | .sneReg x y => formatR 0x9 x y 0x0
  | .ldI nnn => formatA 0xA nnn
  | .jpV0 nnn => formatA 0xB nnn
  | .rnd x nn => formatI 0xC x nn
  | .drw x y n => formatR 0xD x y n
  | .skp x => formatI 0xE x 0x9E
  | .sknp x => formatI 0xE x 0xA1
  | .ldVxDt x => formatI 0xF x 0x07
  | .ldVxK x => formatI 0xF x 0x0A
  | .ldDtVx x => formatI 0xF x 0x15
  | .ldStVx x => formatI 0xF x 0x18
  | .addI x => formatI 0xF x 0x1E
  | .ldF x => formatI 0xF x 0x29
  | .ldB x => formatI 0xF x 0x33
  | .storeRegs x => formatI 0xF x 0x55
  | .loadRegs x => formatI 0xF x 0x65

/-! ### Instruction bytes -/

/-- R53: the two bytes of an instruction word as memory holds them, the high byte at the lower address. -/
def wordBytes (op : Word) : List Byte := [op.extractLsb' 8 8, op.extractLsb' 0 8]

/-- R53: the word two consecutive bytes make, `MemRead(a, 1) ++ MemRead(a+1, 1)`. -/
def wordOf (hi lo : Byte) : Word := hi ++ lo

/-- What the decoder makes of a byte string: the instruction at its head with the bytes after it, or a
rejection by name. -/
inductive Decoded where
  /-- a recognised instruction, and the rest of the bytes -/
  | instr (i : Instr) (rest : List Byte)
  /-- R80: the word at the head is unrecognised (the machine runs it as a no-op with a warning, R93) -/
  | unrecognised (op : Word) (rest : List Byte)
  /-- fewer than two bytes are left: no instruction word (R70) -/
  | truncated
  deriving DecidableEq, Repr

/-- Decoding of any byte string (R53, R70): total, rejecting by name. -/
def decodeBytes : List Byte → Decoded
  | hi :: lo :: rest =>
    match decode (wordOf hi lo) with
    | some i => .instr i rest
    | none => .unrecognised (wordOf hi lo) rest
  | _ => .truncated

/-- The word that the low `nbits` bits of `w` give, in the numbering of spec/opcode_table.json (bit 0 of
the one 16-bit word is its least significant bit, R70); the bits above `nbits` are 0. -/
def tableWord (nbits w : Nat) : Word := BitVec.ofNat 16 (w % 2 ^ nbits)

/-- The instruction this decoder reads from the table's word: laid out as the hardware stores it (R53),
then decoded. -/
def decodeTableWord (nbits w : Nat) : Option Instr :=
  match decodeBytes (wordBytes (tableWord nbits w)) with
  | .instr i _ => some i
  | _ => none

/-! ### The opcode map as mask and match (R75) -/

/-- One row of R75. -/
structure OpcodeRow where
  mask : Word
  pattern : Word
  deriving DecidableEq, Repr

/-- A word matches a row iff `(op & mask) = match` (R74). -/
def OpcodeRow.hits (r : OpcodeRow) (op : Word) : Bool := op &&& r.mask == r.pattern

/-- The row of R75 an instruction belongs to: `mask` and `match` as that table gives them. -/
def Instr.row : Instr → OpcodeRow
  | .cls => ⟨0xFFFF, 0x00E0⟩
  | .ret => ⟨0xFFFF, 0x00EE⟩
  | .jp _ => ⟨0xF000, 0x1000⟩
  | .call _ => ⟨0xF000, 0x2000⟩
  | .seImm _ _ => ⟨0xF000, 0x3000⟩
  | .sneImm _ _ => ⟨0xF000, 0x4000⟩
  | .seReg _ _ => ⟨0xF00F, 0x5000⟩
  | .ldImm _ _ => ⟨0xF000, 0x6000⟩
  | .addImm _ _ => ⟨0xF000, 0x7000⟩
  | .ldReg _ _ => ⟨0xF00F, 0x8000⟩
  | .orReg _ _ => ⟨0xF00F, 0x8001⟩
  | .andReg _ _ => ⟨0xF00F, 0x8002⟩
  | .xorReg _ _ => ⟨0xF00F, 0x8003⟩
  | .addReg _ _ => ⟨0xF00F, 0x8004⟩
  | .subReg _ _ => ⟨0xF00F, 0x8005⟩
  | .shr _ _ => ⟨0xF00F, 0x8006⟩
  | .subnReg _ _ => ⟨0xF00F, 0x8007⟩
  | .shl _ _ => ⟨0xF00F, 0x800E⟩
  | .sneReg _ _ => ⟨0xF00F, 0x9000⟩
  | .ldI _ => ⟨0xF000, 0xA000⟩
  | .jpV0 _ => ⟨0xF000, 0xB000⟩
  | .rnd _ _ => ⟨0xF000, 0xC000⟩
  | .drw _ _ _ => ⟨0xF000, 0xD000⟩
  | .skp _ => ⟨0xF0FF, 0xE09E⟩
  | .sknp _ => ⟨0xF0FF, 0xE0A1⟩
  | .ldVxDt _ => ⟨0xF0FF, 0xF007⟩
  | .ldVxK _ => ⟨0xF0FF, 0xF00A⟩
  | .ldDtVx _ => ⟨0xF0FF, 0xF015⟩
  | .ldStVx _ => ⟨0xF0FF, 0xF018⟩
  | .addI _ => ⟨0xF0FF, 0xF01E⟩
  | .ldF _ => ⟨0xF0FF, 0xF029⟩
  | .ldB _ => ⟨0xF0FF, 0xF033⟩
  | .storeRegs _ => ⟨0xF0FF, 0xF055⟩
  | .loadRegs _ => ⟨0xF0FF, 0xF065⟩

/-- The 34 rows of R75, in its order (sorted by pattern). -/
def opcodeTable : List OpcodeRow :=
  [⟨0xFFFF, 0x00E0⟩, ⟨0xFFFF, 0x00EE⟩, ⟨0xF000, 0x1000⟩, ⟨0xF000, 0x2000⟩, ⟨0xF000, 0x3000⟩,
   ⟨0xF000, 0x4000⟩, ⟨0xF00F, 0x5000⟩, ⟨0xF000, 0x6000⟩, ⟨0xF000, 0x7000⟩] ++
  [⟨0xF00F, 0x8000⟩, ⟨0xF00F, 0x8001⟩, ⟨0xF00F, 0x8002⟩, ⟨0xF00F, 0x8003⟩, ⟨0xF00F, 0x8004⟩,
   ⟨0xF00F, 0x8005⟩, ⟨0xF00F, 0x8006⟩, ⟨0xF00F, 0x8007⟩, ⟨0xF00F, 0x800E⟩, ⟨0xF00F, 0x9000⟩] ++
  [⟨0xF000, 0xA000⟩, ⟨0xF000, 0xB000⟩, ⟨0xF000, 0xC000⟩, ⟨0xF000, 0xD000⟩, ⟨0xF0FF, 0xE09E⟩,
   ⟨0xF0FF, 0xE0A1⟩] ++
  [⟨0xF0FF, 0xF007⟩, ⟨0xF0FF, 0xF00A⟩, ⟨0xF0FF, 0xF015⟩, ⟨0xF0FF, 0xF018⟩, ⟨0xF0FF, 0xF01E⟩,
   ⟨0xF0FF, 0xF029⟩, ⟨0xF0FF, 0xF033⟩, ⟨0xF0FF, 0xF055⟩, ⟨0xF0FF, 0xF065⟩]

end Sys2Proof
end

