-- ==== Sys2Proof/Machine/State.lean ====
section
/-! DEFINITION. The architectural state (10_state.md R20 to R43), as plain data, and its value after
reset (R40). Besides the spec's state it holds one field of the model's own, `draws` (log 5). -/

namespace Sys2Proof.Machine

/-- Memory (R28): (address, byte) pairs in one canonical form, addresses strictly rising, no entry equal
to what an unlisted address reads as (`Memory.unlisted` in Machine/Ops.lean, log 10). -/
abbrev Memory := List Host.Cell

/-- The framebuffer (R30): 32 rows of 64 one-bit cells; cell `64*y + x` is bit `x` of row `y` (R31). -/
abbrev Framebuffer := Vector (BitVec 64) 32

/-- `status` (R36). -/
inductive Status where
  /-- 0 = RUNNING -/
  | running
  /-- 1 = FAULTED: absorbing for step and tick (R174) -/
  | faulted
  deriving DecidableEq, Repr

/-- `fault_cause` (R36, R171): the codes 0 to 6; the 3-bit code 7 "is never produced". -/
inductive FaultCause where
  /-- 0, no fault recorded -/
  | none
  /-- 1, FETCH_OOB: PC > 0xFFE at the start of a step -/
  | fetchOob
  /-- 2, MEM_READ_OOB: DXYN, FX65 -/
  | memReadOob
  /-- 3, MEM_WRITE_OOB: FX33, FX55 -/
  | memWriteOob
  /-- 4, STACK_OVERFLOW: 2NNN -/
  | stackOverflow
  /-- 5, STACK_UNDERFLOW: 00EE -/
  | stackUnderflow
  /-- 6, KEY_INDEX: EX9E, EXA1 -/
  | keyIndex
  deriving DecidableEq, Repr

/-- The whole state of one machine. -/
structure State where
  /-- V0 to VF (R20); V15 is also the flag register VF (R21). -/
  v : Vector Byte 16
  /-- I, the index register, 16 bits, never masked to 12 (R23). -/
  I : Word
  /-- PC (R24). -/
  pc : Word
  /-- SP, the entries in use, 0 to 16 inclusive (R27). -/
  sp : Fin 17
  /-- The call stack, 16 entries, not part of memory (R26). -/
  stack : Vector Word 16
  /-- Memory, 4096 bytes (R28). -/
  mem : Memory
  /-- The framebuffer, 2048 cells (R30). -/
  fb : Framebuffer
  /-- The input latch, written by the host only (R33). -/
  key : Vector Bool 16
  /-- DT, the delay timer (R34). -/
  dt : Byte
  /-- ST, the sound timer (R34). -/
  st : Byte
  /-- The redraw-pending flag (R35). -/
  redraw : Bool
  /-- RUNNING or FAULTED (R36). -/
  status : Status
  /-- The cause of the fault taken (R36). -/
  faultCause : FaultCause
  /-- The offending value (R36). -/
  faultInfo : Word
  /-- The address the faulting word was fetched from (R36). -/
  faultIpc : Word
  /-- `shift_quirk`, `IPS`, `FONT` (R37, R38, R29): no event changes them (R40). -/
  config : Configuration
  /-- THE MODEL'S OWN: how many random bytes CXNN has drawn (R132, D24; log 5). -/
  draws : Nat
  deriving DecidableEq, Repr

/-- Reasons the machine stops without a next state: NONE. Every fault the spec gives this core is an
addressing fault, whose entry R173 describes, so the model takes it as a next state with the fault record
written (log 7); no instruction raises anything else (R170). -/
inductive Fault where
  deriving DecidableEq, Repr

/-- Reasons an instruction has no meaning. -/
inductive Refusal where
  /-- Raised by `exec` for an instruction whose meaning is not written yet (safe); no arm answers it. -/
  | notModelled (mnemonic : String)
  deriving DecidableEq, Repr

/-- The machine right after reset (R40, R190, R191), under the configuration `Config.standard` (log 3,
log 4), with memory holding nothing but what unlisted addresses read as: FONT at 0x000 to 0x04F, zero
elsewhere. PC = 0x200 and the place of the fontset are the source's; the other values are the spec's
decisions D2 to D9 and D14 (log 6). -/
def State.reset : State where
  v := Vector.replicate 16 0
  I := 0
  pc := 0x200
  sp := 0
  stack := Vector.replicate 16 0
  mem := []
  fb := Vector.replicate 32 0
  key := Vector.replicate 16 false
  dt := 0
  st := 0
  redraw := false
  status := .running
  faultCause := .none
  faultInfo := 0
  faultIpc := 0
  config := Config.standard
  draws := 0

end Sys2Proof.Machine
end

