-- ==== Sys2Proof/Machine/Ops.lean ====
section
/-! DEFINITION. The named operations over the state: registers, memory, the call stack, the framebuffer,
PC, and TAKING AN ADDRESSING FAULT (60_exceptions.md R173), written once. There is no return from a fault
on this core (R174: "no return instruction, no resumption and no nesting"). -/

namespace Sys2Proof.Machine

/-! ### General registers (R20) -/

/-- `V[i]` (R8). -/
def readV (s : State) (x : Nibble) : Byte := s.v[x.toNat]'x.isLt

/-- `V[i] <- v` (R8, R20): no register is hardwired. -/
def writeV (s : State) (x : Nibble) (b : Byte) : State :=
  { s with v := s.v.set x.toNat b x.isLt }

/-- The values of V0 to VX, in order (R144). -/
def regsUpTo (s : State) (x : Nibble) : List Byte :=
  (List.range (x.toNat + 1)).map fun k => readV s (BitVec.ofNat 4 k)

/-- `V[k], V[k+1], ... <- bs` (R145), in ascending order. -/
def writeRegs (s : State) (k : Nat) : List Byte → State
  | [] => s
  | b :: bs => writeRegs (writeV s (BitVec.ofNat 4 k) b) (k + 1) bs

/-! ### Memory (R28, R50 to R58) -/

/-- What an address that memory does not list reads as: the reset contents, FONT at 0x000 to 0x04F
(R29, R51) and 0 elsewhere (R40, D7; log 10). -/
def Memory.unlisted (font : Vector Byte 80) (a : Nat) : Byte :=
  if h : a < Config.fontBytes then font[a]'h else 0

/-- The byte at an address: memory is plain storage (R58). -/
def Memory.read (font : Vector Byte 80) : Memory → Nat → Byte
  | [], a => Memory.unlisted font a
  | (b, v) :: m, a => if a = b then v else Memory.read font m a

/-- Put an entry in its place, over an older one for the same address. -/
def Memory.put : Memory → Nat → Byte → Memory
  | [], a, v => [(a, v)]
  | (b, w) :: m, a, v =>
    if a < b then (a, v) :: (b, w) :: m
    else if a = b then (a, v) :: m
    else (b, w) :: Memory.put m a v

/-- Take the entry for an address out. -/
def Memory.drop : Memory → Nat → Memory
  | [], _ => []
  | (b, w) :: m, a => if a = b then m else (b, w) :: Memory.drop m a

/-- Set one byte, keeping the canonical form. Addresses of 4096 and more do not exist: a write there
changes nothing, and every caller checks the bound first (R8, R56; log 11). -/
def Memory.write (font : Vector Byte 80) (m : Memory) (a : Nat) (v : Byte) : Memory :=
  if a < Config.memSize then
    if v = Memory.unlisted font a then Memory.drop m a else Memory.put m a v
  else m

/-- The canonical form: addresses strictly rising, all below 4096, and no entry equal to what the
address reads as unlisted. -/
abbrev Memory.wf (font : Vector Byte 80) (m : Memory) : Prop :=
  m.Pairwise (fun p q => p.1 < q.1) ∧
    ∀ c ∈ m, c.1 < Config.memSize ∧ c.2 ≠ Memory.unlisted font c.1

/-- `MemRead(addr, 1)` (R8). -/
def readByte (s : State) (a : Nat) : Byte := Memory.read s.config.font s.mem a

/-- `MemWrite(addr, 1, v)` (R8). -/
def writeByte (s : State) (a : Nat) (v : Byte) : State :=
  { s with mem := Memory.write s.config.font s.mem a v }

/-- Store consecutive bytes from address `a` upward, in ascending order (R57). -/
def storeBytes (s : State) (a : Nat) : List Byte → State
  | [] => s
  | b :: bs => storeBytes (writeByte s a b) (a + 1) bs

/-- Read `n` consecutive bytes from address `a` upward (R57). -/
def readBytes (s : State) (a n : Nat) : List Byte :=
  (List.range n).map fun k => readByte s (a + k)

/-- R56: whether an access to the `n` bytes from I upward leaves memory: `I + last >= 4096` with
`last = n - 1`, computed on natural numbers without wrap; no access when `n = 0`. -/
def blockOutside (s : State) (n : Nat) : Bool :=
  decide (0 < n) && decide (Config.memSize ≤ s.I.toNat + (n - 1))

/-! ### Program counter (R24, R90, R108) -/

/-- R54: a fetch from PC needs PC <= 0xFFE. -/
def fetchOutside (s : State) : Bool := decide (Config.lastFetch < s.pc.toNat)

/-- R53: the instruction word at PC, high byte first, from memory as it is now (R62, R91). -/
def fetchWord (s : State) : Word :=
  wordOf (readByte s s.pc.toNat) (readByte s (s.pc.toNat + 1))

/-- The fetch-side increment (R90), modulo 65536 (R24). -/
def advancePc (s : State) : State := { s with pc := s.pc + 2 }

/-- `pc <- target`. -/
def setPc (s : State) (target : Word) : State := { s with pc := target }

/-- R108: a skip adds 2 to PC a second time. -/
def skipIf (c : Bool) (s : State) : State := if c then { s with pc := s.pc + 2 } else s

/-- R165: the rewind of FX0A, `pc <- PC - 2`. -/
def rewindPc (s : State) : State := { s with pc := s.pc - 2 }

/-! ### Index register (R23) -/

/-- `I <- v`, modulo 65536. -/
def setI (s : State) (w : Word) : State := { s with I := w }

/-! ### Call stack (R26, R27) -/

/-- `stack[i]`, 0 <= i <= 15. -/
def stackEntry (s : State) (i : Fin 16) : Word := s.stack[i.val]'i.isLt

/-- R102: `stack[SP] <- w; SP <- SP + 1`. The position must be 0 to 15: its caller checks it. -/
def push (s : State) (w : Word) : State :=
  if h : s.sp.val < Config.stackDepth then
    { s with stack := s.stack.set s.sp.val w h, sp := ⟨s.sp.val + 1, Nat.succ_lt_succ h⟩ }
  else s

/-- R100: `SP <- SP - 1; pc <- stack[SP]`. The stack must not be empty: its caller checks it. The entry
is not erased. -/
def popPc (s : State) : State :=
  if h : 0 < s.sp.val then
    { s with
      sp := ⟨s.sp.val - 1, Nat.lt_of_le_of_lt (Nat.sub_le _ _) s.sp.isLt⟩
      pc := s.stack[s.sp.val - 1]'(Nat.lt_of_lt_of_le (Nat.sub_lt h Nat.one_pos) (Nat.le_of_lt_succ s.sp.isLt)) }
  else s

/-! ### Framebuffer (R30, R31) -/

/-- `fb[i]`, 0 <= i < 2048 (R31: row `i / 64`, column `i mod 64`). -/
def Framebuffer.cell (fb : Framebuffer) (i : Nat) : Bool :=
  if h : i / Config.fbW < Config.fbH then (fb[i / Config.fbW]'h).getLsbD (i % Config.fbW) else false

/-- `fb[i] <- fb[i] ^ 1` (R151). -/
def Framebuffer.flip (fb : Framebuffer) (i : Nat) : Framebuffer :=
  if h : i / Config.fbW < Config.fbH then
    fb.set (i / Config.fbW) ((fb[i / Config.fbW]'h) ^^^ BitVec.twoPow 64 (i % Config.fbW)) h
  else fb

/-- All 2048 cells 0 (R150). -/
def Framebuffer.blank : Framebuffer := Vector.replicate 32 0

/-- Cell `fb[i]` of the state. -/
def readCell (s : State) (i : Nat) : Bool := s.fb.cell i

/-- Replace the framebuffer and set `redraw`, as every 00E0 and DXYN does at its end (R35). -/
def showFb (s : State) (fb : Framebuffer) : State := { s with fb := fb, redraw := true }

/-- R152: the cell of column `x0 + col`, row `y0 + row`, each wrapped, with the final `mod 2048` the
source names. -/
def pixelIndex (x0 y0 row col : Nat) : Nat :=
  (Config.fbW * ((y0 + row) % Config.fbH) + (x0 + col) % Config.fbW) % 2048

/-- The cells the 1 bits of one sprite row fall on, column 0 first; bit 7 is the leftmost (D19; log 19). -/
def rowPixels (x0 y0 row : Nat) (b : Byte) : List Nat :=
  ((List.range 8).filter fun col => b.getLsbD (7 - col)).map (pixelIndex x0 y0 row)

/-- The cells the 1 bits of a sprite fall on, row by row from row `row`. -/
def spritePixels (x0 y0 row : Nat) : List Byte → List Nat
  | [] => []
  | b :: bs => rowPixels x0 y0 row b ++ spritePixels x0 y0 (row + 1) bs

/-- One sprite bit of value 1 onto cell `i` (R151): a collision if the cell was 1, then the XOR. -/
def plot (p : Framebuffer × Bool) (i : Nat) : Framebuffer × Bool :=
  (p.1.flip i, p.2 || p.1.cell i)

/-- R151: XOR a sprite into the framebuffer; the new framebuffer and whether any bit collided. -/
def drawSprite (fb : Framebuffer) (x0 y0 : Nat) (rows : List Byte) : Framebuffer × Bool :=
  (spritePixels x0 y0 0 rows).foldl plot (fb, false)

/-! ### Input latch (R33) -/

/-- `key[k]`, 0 <= k <= 15. -/
def keyDown (s : State) (k : Fin 16) : Bool := s.key[k.val]'k.isLt

/-- The 16 key codes in ascending order, the order FX0A scans them in (R165). -/
def keyCodes : List (Fin 16) := [0, 1, 2, 3, 4, 5, 6, 7, 8, 9, 10, 11, 12, 13, 14, 15]

/-- R165: the least key code that is pressed, if any. -/
def firstKey (s : State) : Option (Fin 16) := keyCodes.find? (keyDown s)

/-! ### Timers (R34) -/

/-- R180: a timer counts down by 1 when positive and stays at 0. -/
def countDown (t : Byte) : Byte := if t = 0 then 0 else t - 1

/-- `dt <- b` (R163). -/
def setDt (s : State) (b : Byte) : State := { s with dt := b }

/-- `st <- b` (R164). -/
def setSt (s : State) (b : Byte) : State := { s with st := b }

/-! ### Random byte (R132) -/

/-- The next random byte: a free value, a fresh one for each draw (D24; log 5). -/
def drawnByte (s : State) : Byte := Config.freeByte s.draws

/-- Count the draw, so that the next one is another byte. -/
def countDraw (s : State) : State := { s with draws := s.draws + 1 }

/-! ### Taking an addressing fault (R171, R173) -/

/-- The number of a cause (R36, R171). -/
def FaultCause.code : FaultCause → BitVec 3
  | .none => 0
  | .fetchOob => 1
  | .memReadOob => 2
  | .memWriteOob => 3
  | .stackOverflow => 4
  | .stackUnderflow => 5
  | .keyIndex => 6

/-- Fault entry (R173): the four writes, and nothing else. Control goes nowhere. -/
def takeFault (cause : FaultCause) (info ipc : Word) (s : State) : State :=
  { s with status := .faulted, faultCause := cause, faultInfo := info, faultIpc := ipc }

/-- `raise AddressingFault(cause, info)` inside an instruction (R8, R173): the word was fetched from
`a = PC - 2`, since the fetch-side increment precedes execution (R90; log 9). -/
def raiseFault (cause : FaultCause) (info : Word) (s : State) : Host.Outcome State Fault Refusal :=
  .next (takeFault cause info (s.pc - 2) s)

/-! ### Placing a word where the next step fetches (the host's withFetchWord) -/

/-- The state in which the next step fetches `op`: its two bytes at PC (R53); if the machine could not
fetch at all (FAULTED, or PC beyond 0xFFE), RUNNING and PC at the entry point, which the fetch needs
(log 12). -/
def placeWord (s : State) (op : Word) : State :=
  let p : State := { s with
    status := .running
    pc := if Config.lastFetch < s.pc.toNat then BitVec.ofNat 16 Config.progBase else s.pc }
  storeBytes p p.pc.toNat (wordBytes op)

end Sys2Proof.Machine
end

