-- ==== Sys2Proof/Machine/Flags.lean ====
section
/-! DEFINITION. The one flag, VF, and every computation of it (10_state.md R21, R39). The flag is written
strictly after the result, so that with X = 15 the flag wins (R21). -/

namespace Sys2Proof.Machine

/-- VF is general register 15 (R21). -/
abbrev vf : Nibble := 0xF#4

/-- A flag as the byte VF holds: 0 or 1. -/
def flagByte (c : Bool) : Byte := if c then 1 else 0

/-- Write VF as a flag. -/
def setFlag (s : State) (c : Bool) : State := writeV s vf (flagByte c)

/-- 8XY4 (R126): carry, `V[X] + V[Y] > 255`. -/
def carryOut (x y : Byte) : Bool := decide (255 < x.toNat + y.toNat)

/-- 8XY5, 8XY7 (R127, R129): no borrow in `x - y`, `x >= y`; equal operands give no borrow (D20; log 20). -/
def noBorrow (x y : Byte) : Bool := decide (y.toNat ≤ x.toNat)

/-- 8XY6 (R128): bit 0 of the value shifted. -/
def lowBitOut (t : Byte) : Bool := t.getLsbD 0

/-- 8XYE (R130): bit 7 of the value shifted. -/
def highBitOut (t : Byte) : Bool := t.getLsbD 7

/-- R21: the result to VX, then the flag to VF. -/
def writeResultThenFlag (s : State) (x : Nibble) (r : Byte) (c : Bool) : State :=
  setFlag (writeV s x r) c

end Sys2Proof.Machine
end

