-- ==== Sys2Proof/Machine/Operands.lean ====
section
/-! DEFINITION. The operand forms (30_encoding.md R73, 20_memory.md R56): registers and immediates are read
by `readV` and as they stand; what is left are the value a shift works on, the block of bytes at I, the
decimal digits of a byte, and a key code held in a register. -/

namespace Sys2Proof.Machine

/-- The pre-shift value of 8XY6 and 8XYE: VX under the shift quirk, else VY (R37, R128, R130). -/
def shiftOperand (s : State) (x y : Nibble) : Byte :=
  if s.config.shiftQuirk then readV s x else readV s y

/-- The `n` bytes at I, I + 1, ... (R56, R57): the sprite rows of DXYN, the source of FX65. -/
def blockAtI (s : State) (n : Nat) : List Byte := readBytes s s.I.toNat n

/-- FX55, FX65 (R144, R145): `I <- (I + X + 1) mod 65536`. -/
def stepI (s : State) (x : Nibble) : State := setI s (s.I + zext16 x + 1)

/-- FX33 (R143): hundreds, tens and ones of a byte, one whole byte each. -/
def decimalDigits (v : Byte) : List Byte :=
  [BitVec.ofNat 8 (v.toNat / 100), BitVec.ofNat 8 (v.toNat / 10 % 10), BitVec.ofNat 8 (v.toNat % 10)]

/-- EX9E, EXA1 (R160, R166): the key code in a byte, if it is one (0 to 15; D17; log 17). -/
def keyCode (v : Byte) : Option (Fin 16) := if h : v.toNat < 16 then some ⟨v.toNat, h⟩ else none

end Sys2Proof.Machine
end

