-- ==== Sys2Proof/Machine/Alu.lean ====
section
/-! DEFINITION. Register load, arithmetic, logic, shift and random (42_alu.md R120 to R132). None of these
can fault. All operands are read before any write (R8). -/

namespace Sys2Proof.Machine

/-- 6XNN, LD Vx, nn (R120). -/
def execLdImm (x : Nibble) (nn : Byte) (s : State) : Host.Outcome State Fault Refusal :=
  .next (writeV s x nn)

/-- 7XNN, ADD Vx, nn (R121): modulo 256, no flag. -/
def execAddImm (x : Nibble) (nn : Byte) (s : State) : Host.Outcome State Fault Refusal :=
  .next (writeV s x (readV s x + nn))

/-- 8XY0, LD Vx, Vy (R122). -/
def execLdReg (x y : Nibble) (s : State) : Host.Outcome State Fault Refusal :=
  .next (writeV s x (readV s y))

/-- 8XY1, OR (R123): VF is not written (D21; log 21). -/
def execOrReg (x y : Nibble) (s : State) : Host.Outcome State Fault Refusal :=
  .next (writeV s x (readV s x ||| readV s y))

/-- 8XY2, AND (R124): VF is not written (D21; log 21). -/
def execAndReg (x y : Nibble) (s : State) : Host.Outcome State Fault Refusal :=
  .next (writeV s x (readV s x &&& readV s y))

/-- 8XY3, XOR (R125): VF is not written (D21; log 21). -/
def execXorReg (x y : Nibble) (s : State) : Host.Outcome State Fault Refusal :=
  .next (writeV s x (readV s x ^^^ readV s y))

/-- 8XY4, ADD Vx, Vy (R126): carry to VF, second. -/
def execAddReg (x y : Nibble) (s : State) : Host.Outcome State Fault Refusal :=
  .next (writeResultThenFlag s x (readV s x + readV s y) (carryOut (readV s x) (readV s y)))

/-- 8XY5, SUB (R127): VX - VY, not-borrow to VF, second. -/
def execSubReg (x y : Nibble) (s : State) : Host.Outcome State Fault Refusal :=
  .next (writeResultThenFlag s x (readV s x - readV s y) (noBorrow (readV s x) (readV s y)))

/-- 8XY6, SHR (R128): logical, by one place; bit 0 of the pre-shift value to VF, second. -/
def execShr (x y : Nibble) (s : State) : Host.Outcome State Fault Refusal :=
  .next (writeResultThenFlag s x (shiftOperand s x y >>> 1) (lowBitOut (shiftOperand s x y)))

/-- 8XY7, SUBN (R129): VY - VX, not-borrow to VF, second. -/
def execSubnReg (x y : Nibble) (s : State) : Host.Outcome State Fault Refusal :=
  .next (writeResultThenFlag s x (readV s y - readV s x) (noBorrow (readV s y) (readV s x)))

/-- 8XYE, SHL (R130): by one place; bit 7 of the pre-shift value to VF, second. -/
def execShl (x y : Nibble) (s : State) : Host.Outcome State Fault Refusal :=
  .next (writeResultThenFlag s x (shiftOperand s x y <<< 1) (highBitOut (shiftOperand s x y)))

/-- CXNN, RND (R132): a fresh free byte AND NN (log 5). -/
def execRnd (x : Nibble) (nn : Byte) (s : State) : Host.Outcome State Fault Refusal :=
  .next (countDraw (writeV s x (drawnByte s &&& nn)))

end Sys2Proof.Machine
end

