-- ==== Sys2Proof/Machine/Control.lean ====
section
/-! DEFINITION. Control transfer (41_control_transfer.md R100 to R108). PC is already `a + 2` when a
meaning starts (R90). -/

namespace Sys2Proof.Machine

/-- 00EE, RET (R100): pop into PC; STACK_UNDERFLOW at SP = 0, with SP as info. -/
def execRet (s : State) : Host.Outcome State Fault Refusal :=
  if s.sp.val = 0 then raiseFault .stackUnderflow (BitVec.ofNat 16 s.sp.val) s
  else .next (popPc s)

/-- 1NNN, JP (R101). -/
def execJp (nnn : Addr) (s : State) : Host.Outcome State Fault Refusal :=
  .next (setPc s (zext16 nnn))

/-- 2NNN, CALL (R102): push PC (= a + 2), then jump; STACK_OVERFLOW at SP = 16, with SP as info. -/
def execCall (nnn : Addr) (s : State) : Host.Outcome State Fault Refusal :=
  if s.sp.val = Config.stackDepth then raiseFault .stackOverflow (BitVec.ofNat 16 s.sp.val) s
  else .next (setPc (push s s.pc) (zext16 nnn))

/-- 3XNN, SE Vx, nn (R103). -/
def execSeImm (x : Nibble) (nn : Byte) (s : State) : Host.Outcome State Fault Refusal :=
  .next (skipIf (readV s x == nn) s)

/-- 4XNN, SNE Vx, nn (R104). -/
def execSneImm (x : Nibble) (nn : Byte) (s : State) : Host.Outcome State Fault Refusal :=
  .next (skipIf (readV s x != nn) s)

/-- 5XY0, SE Vx, Vy (R105). -/
def execSeReg (x y : Nibble) (s : State) : Host.Outcome State Fault Refusal :=
  .next (skipIf (readV s x == readV s y) s)

/-- 9XY0, SNE Vx, Vy (R106). -/
def execSneReg (x y : Nibble) (s : State) : Host.Outcome State Fault Refusal :=
  .next (skipIf (readV s x != readV s y) s)

/-- BNNN, JP V0, nnn (R107): the sum is not masked (D28). -/
def execJpV0 (nnn : Addr) (s : State) : Host.Outcome State Fault Refusal :=
  .next (setPc s (zext16 nnn + zext16 (readV s 0)))

/-- R93: an unrecognised word is a no-op; the warning is the step's report (log 8). -/
def execUnrecognised (s : State) : Host.Outcome State Fault Refusal := .next s

end Sys2Proof.Machine
end

