-- ==== Sys2Proof/Machine/Display.lean ====
section
/-! DEFINITION. The framebuffer instructions (44_display.md R150 to R153). -/

namespace Sys2Proof.Machine

/-- 00E0, CLS (R150): all cells 0; `redraw` set unconditionally. -/
def execCls (s : State) : Host.Outcome State Fault Refusal :=
  .next (showFb s Framebuffer.blank)

/-- DXYN, DRW (R151): the coordinates are read first (D18; log 18); the whole sprite is checked before
anything is written; VF is the collision, `redraw` is set unconditionally. -/
def execDrw (x y n : Nibble) (s : State) : Host.Outcome State Fault Refusal :=
  if blockOutside s n.toNat then raiseFault .memReadOob s.I s
  else
    let drawn := drawSprite s.fb (readV s x).toNat (readV s y).toNat (blockAtI s n.toNat)
    .next (showFb (setFlag s drawn.2) drawn.1)

end Sys2Proof.Machine
end

