-- ==== Sys2Proof/Machine/IndexMemory.lean ====
section
/-! DEFINITION. The index register, loads and stores (43_index_memory.md R140 to R146). The whole range is
checked before the first write (20_memory.md R56), and the fault's info is I. -/

namespace Sys2Proof.Machine

/-- ANNN, LD I, nnn (R140). -/
def execLdI (nnn : Addr) (s : State) : Host.Outcome State Fault Refusal :=
  .next (setI s (zext16 nnn))

/-- FX1E, ADD I, Vx (R141): modulo 65536, no 12-bit mask (D28), no flag (D21). -/
def execAddI (x : Nibble) (s : State) : Host.Outcome State Fault Refusal :=
  .next (setI s (s.I + zext16 (readV s x)))

/-- FX29, LD F, Vx (R142): the whole of VX times 5. -/
def execLdF (x : Nibble) (s : State) : Host.Outcome State Fault Refusal :=
  .next (setI s (zext16 (readV s x) * 5))

/-- FX33, LD B, Vx (R143): three decimal digits at I, I + 1, I + 2. -/
def execLdB (x : Nibble) (s : State) : Host.Outcome State Fault Refusal :=
  if blockOutside s 3 then raiseFault .memWriteOob s.I s
  else .next (storeBytes s s.I.toNat (decimalDigits (readV s x)))

/-- FX55, LD [I], Vx (R144): store V0 to VX, then advance I by X + 1. -/
def execStoreRegs (x : Nibble) (s : State) : Host.Outcome State Fault Refusal :=
  if blockOutside s (x.toNat + 1) then raiseFault .memWriteOob s.I s
  else .next (stepI (storeBytes s s.I.toNat (regsUpTo s x)) x)

/-- FX65, LD Vx, [I] (R145): load V0 to VX, then advance I by X + 1. -/
def execLoadRegs (x : Nibble) (s : State) : Host.Outcome State Fault Refusal :=
  if blockOutside s (x.toNat + 1) then raiseFault .memReadOob s.I s
  else .next (stepI (writeRegs s 0 (blockAtI s (x.toNat + 1))) x)

end Sys2Proof.Machine
end

