-- ==== Sys2Proof/Machine/KeysTimers.lean ====
section
/-! DEFINITION. The key and timer instructions (45_keys_timers.md R160 to R166). -/

namespace Sys2Proof.Machine

/-- EX9E, SKP Vx (R160): skip if the key numbered VX is pressed; KEY_INDEX when VX > 15 (R166). -/
def execSkp (x : Nibble) (s : State) : Host.Outcome State Fault Refusal :=
  match keyCode (readV s x) with
  | some k => .next (skipIf (keyDown s k) s)
  | none => raiseFault .keyIndex (zext16 (readV s x)) s

/-- EXA1, SKNP Vx (R161): skip if the key numbered VX is not pressed; KEY_INDEX when VX > 15 (R166). -/
def execSknp (x : Nibble) (s : State) : Host.Outcome State Fault Refusal :=
  match keyCode (readV s x) with
  | some k => .next (skipIf (!keyDown s k) s)
  | none => raiseFault .keyIndex (zext16 (readV s x)) s

/-- FX07, LD Vx, DT (R162). -/
def execLdVxDt (x : Nibble) (s : State) : Host.Outcome State Fault Refusal :=
  .next (writeV s x s.dt)

/-- FX0A, LD Vx, K (R165): the least pressed key to VX, or PC rewound so that the same word is fetched
again. -/
def execLdVxK (x : Nibble) (s : State) : Host.Outcome State Fault Refusal :=
  match firstKey s with
  | some k => .next (writeV s x (BitVec.ofNat 8 k.val))
  | none => .next (rewindPc s)

/-- FX15, LD DT, Vx (R163). -/
def execLdDtVx (x : Nibble) (s : State) : Host.Outcome State Fault Refusal :=
  .next (setDt s (readV s x))

/-- FX18, LD ST, Vx (R164). -/
def execLdStVx (x : Nibble) (s : State) : Host.Outcome State Fault Refusal :=
  .next (setSt s (readV s x))

end Sys2Proof.Machine
end

