-- ==== Sys2Proof/Machine/Step.lean ====
section
/-! DEFINITION. The `step` event (40_step_and_scheduler.md R90 to R95): fetch, fetch-side increment,
decode, execute. It calls operations of Machine/Ops.lean and nothing of its own. -/

namespace Sys2Proof.Machine

/-- R90. A FAULTED machine does not change (R95); a fetch beyond 0xFFE takes FETCH_OOB before the
increment (R54); an unrecognised word is a no-op (R93). -/
def step (s : State) : Host.Outcome State Fault Refusal :=
  match s.status with
  | .faulted => .next s
  | .running =>
    if fetchOutside s then .next (takeFault .fetchOob s.pc s.pc s)
    else
      match decode (fetchWord s) with
      | some i => exec i (advancePc s)
      | none => execUnrecognised (advancePc s)

/-- The state whose next step fetches and runs the table's word `w` of `nbits` bits (log 12). -/
def State.withFetchWord (s : State) (nbits w : Nat) : State := placeWord s (tableWord nbits w)

end Sys2Proof.Machine
end

