-- ==== Sys2Proof/Machine/Events.lean ====
section
/-! DEFINITION. The other events of the core's interface (00_scope.md R5): reset, load, tick, set_key,
ack_redraw; the step's report (R94); the outputs the host reads (R183, R184); and the cycle scheduler
(40_step_and_scheduler.md R96). Any list of events is a run the spec admits (R97, D27; log 1). -/

namespace Sys2Proof.Machine

/-! ### What a step reports (R94) -/

/-- The outcome of a step (R94): an output of the event, not state (D16; log 8). -/
inductive StepReport where
  /-- an instruction was recognised and executed to the end -/
  | ok
  /-- the word `op` fetched from `a` is unrecognised; a no-op (R176) -/
  | warn (op a : Word)
  /-- an addressing fault at the word fetched from `a` (R173) -/
  | fault (cause : FaultCause) (info a : Word)
  /-- the machine was already FAULTED; nothing happened (R95) -/
  | stopped
  deriving DecidableEq, Repr

/-- What the execution of a recognised instruction fetched from `a` reports. A refused instruction (there
is none) would report nothing. -/
def reportOf (a : Word) : Host.Outcome State Fault Refusal → Option StepReport
  | .next t =>
    match t.status with
    | .running => some .ok
    | .faulted => some (.fault t.faultCause t.faultInfo a)
  | .fault _ => none
  | .refused _ => none

/-- R94: the report of the step taken from `s`. -/
def stepReport (s : State) : Option StepReport :=
  match s.status with
  | .faulted => some .stopped
  | .running =>
    if fetchOutside s then some (.fault .fetchOob s.pc s.pc)
    else
      match decode (fetchWord s) with
      | some i => reportOf s.pc (exec i (advancePc s))
      | none => some (.warn (fetchWord s) s.pc)

/-! ### The host's and the timers' events -/

/-- R190: every piece of state at its reset value, in any state; the configuration is not changed (R40),
and the count of random draws goes on, so that the bytes after a reset are fresh ones (log 5). -/
def resetEvent (s : State) : State := { State.reset with config := s.config, draws := s.draws }

/-- R194: copy the program's bytes to 0x200 upward. R195: a program longer than 3584 bytes is refused
whole, and nothing changes (D30). -/
def load (p : Program) (s : State) : State :=
  if p.wellFormed then storeBytes s Config.progBase p else s

/-- R195: the loader's ROM-too-large error. -/
def romTooLarge (p : Program) : Bool := !p.wellFormed

/-- R180: both timers count down, independently; a FAULTED machine's timers freeze (R174). -/
def tick (s : State) : State :=
  match s.status with
  | .faulted => s
  | .running => { s with dt := countDown s.dt, st := countDown s.st }

/-- R33: the host sets one cell of the input latch, in any status (R174). -/
def setKey (k : Fin 16) (b : Bool) (s : State) : State :=
  { s with key := s.key.set k.val b k.isLt }

/-- R35: the host clears the redraw-pending flag, in any status (R174). -/
def ackRedraw (s : State) : State := { s with redraw := false }

/-- The six atomic events of R5. -/
inductive Event where
  | reset
  | load (p : Program)
  | step
  | tick
  | setKey (k : Fin 16) (b : Bool)
  | ackRedraw
  deriving DecidableEq, Repr

/-- One event on the state (R5, R12): atomic, never overlapping another. -/
def deliver (e : Event) (s : State) : Host.Outcome State Fault Refusal :=
  match e with
  | .reset => .next (resetEvent s)
  | .load p => .next (load p s)
  | .step => step s
  | .tick => .next (tick s)
  | .setKey k b => .next (setKey k b s)
  | .ackRedraw => .next (ackRedraw s)

/-- A run: events one after another, in any order (R97). -/
def runEvents : List Event → State → Host.Outcome State Fault Refusal
  | [], s => .next s
  | e :: es, s =>
    match deliver e s with
    | .next t => runEvents es t
    | .fault r => .fault r
    | .refused r => .refused r

/-! ### The cycle scheduler (R96) -/

/-- `IPF = IPS div 60` (R38, R96). -/
def ipf (s : State) : Nat := s.config.ips / 60

/-- R96: on each external tick, IPF steps and then one tick. The scheduler has no state. -/
def frameEvents (s : State) : List Event := List.replicate (ipf s) .step ++ [.tick]

/-- One period of the external cadence (R96). -/
def externalTick (s : State) : Host.Outcome State Fault Refusal := runEvents (frameEvents s) s

/-! ### Outputs (R5, R183, R184) -/

/-- R184: the tone output, `ST > 0`. -/
def tone (s : State) : Bool := decide (0 < s.st.toNat)

/-- R183, R31: the pixel in column `x` and row `y` of the framebuffer export, `fb[64*y + x]`. -/
def pixel (s : State) (x : Fin 64) (y : Fin 32) : Bool := readCell s (64 * y.val + x.val)

/-- R183: the framebuffer export, "a flat read-only view of 2048 one-bit cells". -/
def frameView (s : State) : List Bool := (List.range 2048).map (readCell s)

/-- R36: the fault record, with the cause as its 3-bit code. -/
def faultRecord (s : State) : BitVec 3 × Word × Word := (s.faultCause.code, s.faultInfo, s.faultIpc)

end Sys2Proof.Machine
end

