-- ==== Sys2Proof/Safety.lean ====
section
/-! DEFINITION. The terms claims are stated in: what a claim may leave changed (`SameExcept`), what taking
a fault is (`FaultTaken`), what counts as a safe run, the invariants of the machine, and the spec's own
whole-machine tables (R22, R25, R171) written from its text, apart from the meanings in Machine/. -/

namespace Sys2Proof.Machine

/-! ### Frames -/

/-- A part of the state that an event may change. The input latch and the configuration are no parts: no
step and no tick changes them (R33, R37, R38). -/
inductive Part where
  | reg (r : Nibble)
  | index
  | pc
  | sp
  | stack
  | memory
  | framebuffer
  | redraw
  | dt
  | st
  /-- `status` and the three fields of the fault record -/
  | fault
  | draws
  deriving DecidableEq, Repr

/-- Every part of the state but those named reads in `t` as it reads in `s`. Memory, framebuffer and stack
are compared through the reads of one byte, one cell, one entry. -/
structure SameExcept (ps : List Part) (s t : State) : Prop where
  regs : ∀ r, Part.reg r ∉ ps → readV t r = readV s r
  index : Part.index ∉ ps → t.I = s.I
  pc : Part.pc ∉ ps → t.pc = s.pc
  sp : Part.sp ∉ ps → t.sp = s.sp
  stack : Part.stack ∉ ps → ∀ k, stackEntry t k = stackEntry s k
  memory : Part.memory ∉ ps → ∀ a, readByte t a = readByte s a
  framebuffer : Part.framebuffer ∉ ps → ∀ i, readCell t i = readCell s i
  redraw : Part.redraw ∉ ps → t.redraw = s.redraw
  dt : Part.dt ∉ ps → t.dt = s.dt
  st : Part.st ∉ ps → t.st = s.st
  status : Part.fault ∉ ps → t.status = s.status
  faultCause : Part.fault ∉ ps → t.faultCause = s.faultCause
  faultInfo : Part.fault ∉ ps → t.faultInfo = s.faultInfo
  faultIpc : Part.fault ∉ ps → t.faultIpc = s.faultIpc
  draws : Part.draws ∉ ps → t.draws = s.draws
  key : t.key = s.key
  config : t.config = s.config

/-- R173: `t` is `s` with the fault taken by an instruction, and nothing else changed: the word was fetched
from `a`, and PC is `a + 2` in both. -/
def FaultTaken (cause : FaultCause) (info : Nat) (a : Word) (s t : State) : Prop :=
  t.status = .faulted ∧ t.faultCause = cause ∧ t.faultInfo.toNat = info ∧ t.faultIpc = a ∧
    SameExcept [.fault] s t

/-- Every word that a mask and a pattern of R75 select decodes to the instruction `f` makes of its fields. -/
def DecodesAs (mask pattern : Word) (f : Word → Instr) : Prop :=
  ∀ op, op &&& mask = pattern → decode op = some (f op)

/-! ### Safe runs -/

/-- R174: "For a model, a FAULTED state is never a successful end of a run": these events lead from `s` to
a state that is RUNNING. -/
def SafeRun (es : List Event) (s : State) : Prop :=
  ∃ t, runEvents es s = .next t ∧ t.status = .running

/-- The step from `s` executes a recognised instruction to its end: no warning, no fault (R94). -/
def CleanStep (s : State) : Prop := stepReport s = some .ok

/-! ### Invariants -/

/-- The memory is in its canonical form. -/
abbrev State.memoryCanonical (s : State) : Prop := Memory.wf s.config.font s.mem

/-- R24, R102: PC never passes 0x10FE, and no stack entry passes 0x1000. -/
def State.PcBounded (s : State) : Prop :=
  s.pc.toNat ≤ 0x10FE ∧ ∀ k, (stackEntry s k).toNat ≤ 0x1000

/-- R36, R171, R173: a RUNNING machine's fault record is empty; a FAULTED machine's record names a cause
of R171 and the value that cause blames, still in the register it came from; PC is where R173 leaves it. -/
def State.RecordAgrees (s : State) : Prop :=
  match s.status, s.faultCause with
  | .running, c => c = .none ∧ s.faultInfo = 0 ∧ s.faultIpc = 0
  | .faulted, .none => False
  | .faulted, .fetchOob => s.faultInfo = s.pc ∧ s.faultIpc = s.pc ∧ 0xFFE < s.pc.toNat
  | .faulted, .memReadOob => s.faultInfo = s.I ∧ s.pc = s.faultIpc + 2
  | .faulted, .memWriteOob => s.faultInfo = s.I ∧ s.pc = s.faultIpc + 2
  | .faulted, .stackOverflow => s.faultInfo = 16 ∧ s.sp = 16 ∧ s.pc = s.faultIpc + 2
  | .faulted, .stackUnderflow => s.faultInfo = 0 ∧ s.sp = 0 ∧ s.pc = s.faultIpc + 2
  | .faulted, .keyIndex => 15 < s.faultInfo.toNat ∧ s.faultInfo.toNat ≤ 255 ∧ s.pc = s.faultIpc + 2

/-! ### The spec's tables -/

/-- R171: when an instruction faults, with which cause and which info, by the table's own conditions. -/
def faultOf (i : Instr) (s : State) : Option (FaultCause × Nat) :=
  match i with
  | .ret => if s.sp.val = 0 then some (.stackUnderflow, 0) else none
  | .call _ => if s.sp.val = 16 then some (.stackOverflow, 16) else none
  | .drw _ _ n =>
    if 0 < n.toNat ∧ 4096 ≤ s.I.toNat + n.toNat - 1 then some (.memReadOob, s.I.toNat) else none
  | .loadRegs x => if 4096 ≤ s.I.toNat + x.toNat then some (.memReadOob, s.I.toNat) else none
  | .ldB _ => if 4096 ≤ s.I.toNat + 2 then some (.memWriteOob, s.I.toNat) else none
  | .storeRegs x => if 4096 ≤ s.I.toNat + x.toNat then some (.memWriteOob, s.I.toNat) else none
  | .skp x => if 15 < (readV s x).toNat then some (.keyIndex, (readV s x).toNat) else none
  | .sknp x => if 15 < (readV s x).toNat then some (.keyIndex, (readV s x).toNat) else none
  | .cls | .jp _ | .seImm _ _ | .sneImm _ _ | .seReg _ _ | .ldImm _ _ | .addImm _ _ | .ldReg _ _
  | .orReg _ _ | .andReg _ _ | .xorReg _ _ | .addReg _ _ | .subReg _ _ | .shr _ _ | .subnReg _ _
  | .shl _ _ | .sneReg _ _ | .ldI _ | .jpV0 _ | .rnd _ _ | .ldVxDt _ | .ldVxK _ | .ldDtVx _
  | .ldStVx _ | .addI _ | .ldF _ => none

/-- R25: PC after the instruction fetched from `a` when it does not fault, with `s` the state before it
(PC = `a + 2`). -/
def pcAfter (i : Instr) (a : Nat) (s : State) : Nat :=
  match i with
  | .ret => if h : 0 < s.sp.val then (stackEntry s ⟨s.sp.val - 1, by omega⟩).toNat else a + 2
  | .jp nnn => nnn.toNat
  | .call nnn => nnn.toNat
  | .seImm x nn => if readV s x = nn then a + 4 else a + 2
  | .sneImm x nn => if readV s x ≠ nn then a + 4 else a + 2
  | .seReg x y => if readV s x = readV s y then a + 4 else a + 2
  | .sneReg x y => if readV s x ≠ readV s y then a + 4 else a + 2
  | .skp x => if ∃ k, keyDown s k = true ∧ k.val = (readV s x).toNat then a + 4 else a + 2
  | .sknp x => if ∃ k, keyDown s k = false ∧ k.val = (readV s x).toNat then a + 4 else a + 2
  | .jpV0 nnn => nnn.toNat + (readV s 0).toNat
  | .ldVxK _ => if ∃ k, keyDown s k = true then a + 2 else a
  | .cls | .ldImm _ _ | .addImm _ _ | .ldReg _ _ | .orReg _ _ | .andReg _ _ | .xorReg _ _ | .addReg _ _
  | .subReg _ _ | .shr _ _ | .subnReg _ _ | .shl _ _ | .ldI _ | .rnd _ _ | .drw _ _ _ | .ldVxDt _
  | .ldDtVx _ | .ldStVx _ | .addI _ | .ldF _ | .ldB _ | .storeRegs _ | .loadRegs _ => a + 2

/-- R22, "reads": the general registers an instruction reads in state `s`. -/
def readsReg (i : Instr) (s : State) (r : Nibble) : Prop :=
  match i with
  | .seImm x _ | .sneImm x _ | .addImm x _ | .skp x | .sknp x | .ldDtVx x | .ldStVx x | .addI x | .ldF x
  | .ldB x => r = x
  | .seReg x y | .sneReg x y | .orReg x y | .andReg x y | .xorReg x y | .addReg x y | .subReg x y
  | .subnReg x y | .drw x y _ => r = x ∨ r = y
  | .ldReg _ y => r = y
  | .shr x y | .shl x y => if s.config.shiftQuirk then r = x else r = y
  | .jpV0 _ => r = 0
  | .storeRegs x => r.toNat ≤ x.toNat
  | .cls | .ret | .jp _ | .call _ | .ldImm _ _ | .ldI _ | .rnd _ _ | .ldVxDt _ | .ldVxK _
  | .loadRegs _ => False

/-- R22, "writes": the general registers an instruction writes in state `s` (a faulting one writes none,
R173). -/
def writesReg (i : Instr) (s : State) (r : Nibble) : Prop :=
  faultOf i s = none ∧
  match i with
  | .ldImm x _ | .addImm x _ | .rnd x _ | .ldReg x _ | .orReg x _ | .andReg x _ | .xorReg x _
  | .ldVxDt x => r = x
  | .addReg x _ | .subReg x _ | .subnReg x _ | .shr x _ | .shl x _ => r = x ∨ r = vf
  | .drw _ _ _ => r = vf
  | .ldVxK x => r = x ∧ ∃ k, keyDown s k = true
  | .loadRegs x => r.toNat ≤ x.toNat
  | .cls | .ret | .jp _ | .call _ | .seImm _ _ | .sneImm _ _ | .seReg _ _ | .sneReg _ _ | .ldI _
  | .jpV0 _ | .skp _ | .sknp _ | .ldDtVx _ | .ldStVx _ | .addI _ | .ldF _ | .ldB _
  | .storeRegs _ => False

/-- The parts an instruction may write (R22, R23, R25 to R30, R34, R35, R36, R39): the "written by" sentence
of each piece of state, gathered by instruction. `draws` is the model's own part (log 5). -/
def mayWrite : Instr → List Part
  | .cls => [.framebuffer, .redraw]
  | .ret => [.sp, .pc, .fault]
  | .jp _ | .jpV0 _ => [.pc]
  | .call _ => [.stack, .sp, .pc, .fault]
  | .seImm _ _ | .sneImm _ _ | .seReg _ _ | .sneReg _ _ => [.pc]
  | .ldImm x _ | .addImm x _ | .ldReg x _ | .orReg x _ | .andReg x _ | .xorReg x _ | .ldVxDt x => [.reg x]
  | .addReg x _ | .subReg x _ | .shr x _ | .subnReg x _ | .shl x _ => [.reg x, .reg vf]
  | .ldI _ | .addI _ | .ldF _ => [.index]
  | .rnd x _ => [.reg x, .draws]
  | .drw _ _ _ => [.reg vf, .framebuffer, .redraw, .fault]
  | .skp _ | .sknp _ => [.pc, .fault]
  | .ldVxK x => [.reg x, .pc]
  | .ldDtVx _ => [.dt]
  | .ldStVx _ => [.st]
  | .ldB _ => [.memory, .fault]
  | .storeRegs _ => [.memory, .index, .fault]
  | .loadRegs x => [.index, .fault] ++ (List.range (x.toNat + 1)).map fun k => .reg (BitVec.ofNat 4 k)

/-- What no instruction reads: `redraw` (R35), ST (R34), the status and the fault record (R36) and IPS
(R38), all set to one value. Two states with the same `visible` differ only there. -/
def visible (s : State) : State :=
  { s with
    redraw := false, st := 0, status := .running, faultCause := .none, faultInfo := 0, faultIpc := 0
    config := { s.config with ips := 0 } }

/-- The same state under other values of `shift_quirk` and `IPS` (R37, R38). -/
def reconfigured (q : Bool) (n : Nat) (s : State) : State :=
  { s with config := { s.config with shiftQuirk := q, ips := n } }

/-- R151: a sprite bit of value 1 falls on cell `i` when the `n` bytes at I are drawn at column `x0`, row
`y0`: row `row`, column `col`, bit 7 leftmost (D19), each coordinate wrapped. -/
def SpriteCovers (s : State) (x0 y0 n i : Nat) : Prop :=
  ∃ row, row < n ∧ ∃ col, col < 8 ∧ (readByte s (s.I.toNat + row)).getLsbD (7 - col) = true ∧
    i = 64 * ((y0 + row) % 32) + (x0 + col) % 64

end Sys2Proof.Machine
end

