-- ==== Sys2Proof/Certificates/Slice0/Obligations.lean ====
section
/-! DEFINITION. The statements for the provers, one `def Obligations.<Name> : Prop` each, listed in
OBLIGATIONS.json. "log n" is notes/assumptions/n.md. -/

open Sys2Proof Sys2Proof.Machine

/-- O1. R71 to R75: no operand bit of an encoding is dropped. Rests on the literal digits of the patterns (D22; log 22). -/
def Obligations.DecodeOfEncodeIsTheInstruction : Prop :=
  ∀ i : Instr, decode (encode i) = some i

/-- O2. R74, R75: no two words share a meaning. Rests on D22 (log 22). -/
def Obligations.EncodeOfDecodeIsTheWord : Prop :=
  ∀ (op : Word) (i : Instr), decode op = some i → encode i = op

/-- O3. R74: "A word is recognised if and only if `(op & mask) = match` for one row of rule R75." Families 0, 5
and 9 rest on the spec's decisions D22 and D23 (log 22). -/
def Obligations.RecognisedExactlyWhenOneRowMatches : Prop :=
  ∀ op : Word,
    ((decode op).isSome = true ↔ ∃ r ∈ opcodeTable, op &&& r.mask = r.pattern) ∧
    (∀ r ∈ opcodeTable, ∀ r' ∈ opcodeTable,
      op &&& r.mask = r.pattern → op &&& r'.mask = r'.pattern → r = r') ∧
    (∀ i, decode op = some i → i.row ∈ opcodeTable ∧ op &&& i.row.mask = i.row.pattern)

/-- O4. The vectors of 95_test_vectors.md 2.1 and the examples of the instruction rules. 01E0, 5121 and 9ABF rest on D22, 0FFF on D23 (log 22). -/
def Obligations.WordsOfTheSpecDecode : Prop :=
  decode 0x00EE = some .ret ∧ decode 0x1234 = some (.jp 0x234) ∧ decode 0x332A = some (.seImm 3 0x2A) ∧
  decode 0x5FF0 = some (.seReg 15 15) ∧ decode 0x600A = some (.ldImm 0 0x0A) ∧
  decode 0x8014 = some (.addReg 0 1) ∧ decode 0x8FFE = some (.shl 15 15) ∧
  decode 0xA2F0 = some (.ldI 0x2F0) ∧ decode 0xC30F = some (.rnd 3 0x0F) ∧
  decode 0xD5A3 = some (.drw 5 10 3) ∧ decode 0xEFA1 = some (.sknp 15) ∧
  decode 0xF50A = some (.ldVxK 5) ∧ decode 0xFF65 = some (.loadRegs 15) ∧
  decode 0x0000 = none ∧ decode 0x01E0 = none ∧ decode 0x0FFF = none ∧ decode 0x5121 = none ∧
  decode 0x9ABF = none ∧ decode 0x812D = none ∧ decode 0xE19F = none ∧ decode 0xF175 = none

/-- O5. R91: the fetch reads the two bytes at PC from memory as it is, and changes no state but PC. -/
def Obligations.StepRunsTheDecodedInstruction : Prop :=
  ∀ s : State, s.status = .running → s.pc.toNat ≤ 0xFFE →
    let op : Word := readByte s s.pc.toNat ++ readByte s (s.pc.toNat + 1)
    (∀ i, decode op = some i → step s = exec i { s with pc := s.pc + 2 }) ∧
    (decode op = none → step s = .next { s with pc := s.pc + 2 })

/-- O6. R93: PC = a + 2, and no other state changes; the warning as an outcome is the spec's decision D16 (log 8). -/
def Obligations.UnrecognisedWordIsANoOp : Prop :=
  ∀ s : State, s.status = .running → s.pc.toNat ≤ 0xFFE →
    decode (readByte s s.pc.toNat ++ readByte s (s.pc.toNat + 1)) = none →
    ∃ t, step s = .next t ∧ t.pc.toNat = s.pc.toNat + 2 ∧ SameExcept [.pc] s t ∧
      stepReport s = some (.warn (readByte s s.pc.toNat ++ readByte s (s.pc.toNat + 1)) s.pc)

/-- O7. R54, R173: the fetch fault. The spec's own decisions D11 (that the fetch is bounded) and D14 (the record); log 14, log 7. -/
def Obligations.FetchBeyondMemoryFaults : Prop :=
  ∀ s : State, s.status = .running → 0xFFE < s.pc.toNat →
    ∃ t, step s = .next t ∧ FaultTaken .fetchOob s.pc.toNat s.pc s t ∧ t.faultCause.code = 1#3 ∧
      stepReport s = some (.fault .fetchOob s.pc s.pc)

/-- O8. R95, R174: the spec's decision D15 (log 7). -/
def Obligations.FaultedMachineStaysFaultedUntilReset : Prop :=
  ∀ s : State, s.status = .faulted →
    step s = .next s ∧ stepReport s = some .stopped ∧ tick s = s ∧
    (∀ k b, keyDown (setKey k b s) k = b) ∧ (ackRedraw s).redraw = false ∧
    (∀ es : List Event, .reset ∉ es →
      ∃ t, runEvents es s = .next t ∧ t.status = .faulted ∧ t.faultCause = s.faultCause ∧
        t.faultInfo = s.faultInfo ∧ t.faultIpc = s.faultIpc ∧ t.pc = s.pc ∧ t.v = s.v ∧ t.dt = s.dt ∧
        t.st = s.st)

/-- O9. R90, R94, R173: a fault is taken (a next state), an unrecognised word goes on, a FAULTED machine stays as it is. That a fault is a next state is log 7. -/
def Obligations.EveryEventAnswersANextState : Prop :=
  (∀ (i : Instr) (s : State), ∃ t, exec i s = .next t) ∧
  (∀ (es : List Event) (s : State), ∃ t, runEvents es s = .next t)

/-- O10. R101. -/
def Obligations.JumpLoadsPc : Prop :=
  DecodesAs 0xF000 0x1000 (fun op => .jp (opNNN op)) ∧
  ∀ (nnn : Addr) (s : State), ∃ t, exec (.jp nnn) s = .next t ∧ t.pc.toNat = nnn.toNat ∧
    SameExcept [.pc] s t

/-- O11. R100. The range of SP is the spec's decision D10 (log 16), the record D14 (log 7). -/
def Obligations.ReturnPopsThePc : Prop :=
  DecodesAs 0xFFFF 0x00EE (fun _ => .ret) ∧
  (∀ (s : State) (k : Fin 16), s.sp.val = k.val + 1 →
    ∃ t, exec .ret s = .next t ∧ t.sp.val = k.val ∧ t.pc = stackEntry s k ∧ SameExcept [.sp, .pc] s t) ∧
  (∀ s : State, s.sp.val = 0 →
    ∃ t, exec .ret s = .next t ∧ FaultTaken .stackUnderflow 0 (s.pc - 2) s t)

/-- O12. R102. The depth is the spec's decision D10 (log 16), the record D14 (log 7). -/
def Obligations.CallPushesThePc : Prop :=
  DecodesAs 0xF000 0x2000 (fun op => .call (opNNN op)) ∧
  (∀ (nnn : Addr) (s : State) (k : Fin 16), s.sp.val = k.val →
    ∃ t, exec (.call nnn) s = .next t ∧ t.sp.val = k.val + 1 ∧ stackEntry t k = s.pc ∧
      (∀ j, j ≠ k → stackEntry t j = stackEntry s j) ∧ t.pc.toNat = nnn.toNat ∧
      SameExcept [.sp, .stack, .pc] s t) ∧
  (∀ (nnn : Addr) (s : State), s.sp.val = 16 →
    ∃ t, exec (.call nnn) s = .next t ∧ FaultTaken .stackOverflow 16 (s.pc - 2) s t)

/-- O13. S7: "2NNN followed by 00EE returns PC to the instruction immediately after the original 2NNN, and stack
pointer returns to its pre-call value." (R100, R102; depth: decision D10, log 16). -/
def Obligations.CallThenReturnComesBack : Prop :=
  ∀ (nnn : Addr) (s t u : State), s.sp.val < 16 → exec (.call nnn) s = .next t → u.sp = t.sp →
    (∀ k, stackEntry u k = stackEntry t k) →
    ∃ w, exec .ret u = .next w ∧ w.pc = s.pc ∧ w.sp = s.sp

/-- O14. R103, R104 (R108 says what a skip does). That PC + 2 is modulo 65536 is the spec's decision D28 (log 23). -/
def Obligations.SkipOnImmediate : Prop :=
  DecodesAs 0xF000 0x3000 (fun op => .seImm (opX op) (opNN op)) ∧
  DecodesAs 0xF000 0x4000 (fun op => .sneImm (opX op) (opNN op)) ∧
  ∀ (x : Nibble) (nn : Byte) (s : State),
    (∃ t, exec (.seImm x nn) s = .next t ∧ SameExcept [.pc] s t ∧
      t.pc.toNat = if readV s x = nn then (s.pc.toNat + 2) % 65536 else s.pc.toNat) ∧
    (∃ t, exec (.sneImm x nn) s = .next t ∧ SameExcept [.pc] s t ∧
      t.pc.toNat = if readV s x = nn then s.pc.toNat else (s.pc.toNat + 2) % 65536)

/-- O15. R105, R106. That N must be 0 is the spec's decision D22 (log 22), that
PC + 2 is modulo 65536 its decision D28 (log 23). -/
def Obligations.SkipOnRegisters : Prop :=
  DecodesAs 0xF00F 0x5000 (fun op => .seReg (opX op) (opY op)) ∧
  DecodesAs 0xF00F 0x9000 (fun op => .sneReg (opX op) (opY op)) ∧
  (∀ op : Word, opT op = 5#4 ∨ opT op = 9#4 → opN op ≠ 0#4 → decode op = none) ∧
  ∀ (x y : Nibble) (s : State),
    (∃ t, exec (.seReg x y) s = .next t ∧ SameExcept [.pc] s t ∧
      t.pc.toNat = if readV s x = readV s y then (s.pc.toNat + 2) % 65536 else s.pc.toNat) ∧
    (∃ t, exec (.sneReg x y) s = .next t ∧ SameExcept [.pc] s t ∧
      t.pc.toNat = if readV s x = readV s y then s.pc.toNat else (s.pc.toNat + 2) % 65536)

/-- O16. R107. No mask: the spec's decision D28 (log 23). -/
def Obligations.JumpPlusV0AddsWithoutMask : Prop :=
  DecodesAs 0xF000 0xB000 (fun op => .jpV0 (opNNN op)) ∧
  ∀ (nnn : Addr) (s : State), ∃ t, exec (.jpV0 nnn) s = .next t ∧
    t.pc.toNat = nnn.toNat + (readV s 0).toNat ∧ SameExcept [.pc] s t

/-- O17. R120. -/
def Obligations.LoadImmediateWritesTheByte : Prop :=
  DecodesAs 0xF000 0x6000 (fun op => .ldImm (opX op) (opNN op)) ∧
  ∀ (x : Nibble) (nn : Byte) (s : State), ∃ t, exec (.ldImm x nn) s = .next t ∧ readV t x = nn ∧
    SameExcept [.reg x] s t

/-- O18. R121. -/
def Obligations.AddImmediateWrapsWithoutFlag : Prop :=
  DecodesAs 0xF000 0x7000 (fun op => .addImm (opX op) (opNN op)) ∧
  ∀ (x : Nibble) (nn : Byte) (s : State), ∃ t, exec (.addImm x nn) s = .next t ∧
    (readV t x).toNat = ((readV s x).toNat + nn.toNat) % 256 ∧ SameExcept [.reg x] s t

/-- O19. R122. That the low nibble 0 is the copy is derived in R77 (log 30). -/
def Obligations.CopyRegisterWritesVy : Prop :=
  DecodesAs 0xF00F 0x8000 (fun op => .ldReg (opX op) (opY op)) ∧
  ∀ (x y : Nibble) (s : State), ∃ t, exec (.ldReg x y) s = .next t ∧ readV t x = readV s y ∧
    SameExcept [.reg x] s t

/-- O20. R123 to R125. The selectors 1 to 3 are derived in R77 (log 30); VF is left alone by the spec's decision D21 (log 21). -/
def Obligations.LogicIsBitwiseAndLeavesVf : Prop :=
  DecodesAs 0xF00F 0x8001 (fun op => .orReg (opX op) (opY op)) ∧
  DecodesAs 0xF00F 0x8002 (fun op => .andReg (opX op) (opY op)) ∧
  DecodesAs 0xF00F 0x8003 (fun op => .xorReg (opX op) (opY op)) ∧
  ∀ (x y : Nibble) (s : State),
    (∃ t, exec (.orReg x y) s = .next t ∧ SameExcept [.reg x] s t ∧ ∀ k,
      (readV t x).getLsbD k = ((readV s x).getLsbD k || (readV s y).getLsbD k)) ∧
    (∃ t, exec (.andReg x y) s = .next t ∧ SameExcept [.reg x] s t ∧ ∀ k,
      (readV t x).getLsbD k = ((readV s x).getLsbD k && (readV s y).getLsbD k)) ∧
    (∃ t, exec (.xorReg x y) s = .next t ∧ SameExcept [.reg x] s t ∧ ∀ k,
      (readV t x).getLsbD k = ((readV s x).getLsbD k ^^ (readV s y).getLsbD k))

/-- O21. R126 (R21: the flag is written second). -/
def Obligations.AddWritesSumThenCarry : Prop :=
  DecodesAs 0xF00F 0x8004 (fun op => .addReg (opX op) (opY op)) ∧
  ∀ (x y : Nibble) (s : State), ∃ t, exec (.addReg x y) s = .next t ∧
    SameExcept [.reg x, .reg vf] s t ∧
    (readV t vf).toNat = (if 255 < (readV s x).toNat + (readV s y).toNat then 1 else 0) ∧
    (x ≠ vf → (readV t x).toNat = ((readV s x).toNat + (readV s y).toNat) % 256)

/-- O22. R127, R129. Equal operands: the spec's decision D20 (log 20). -/
def Obligations.SubtractionsWriteDifferenceThenNotBorrow : Prop :=
  DecodesAs 0xF00F 0x8005 (fun op => .subReg (opX op) (opY op)) ∧
  DecodesAs 0xF00F 0x8007 (fun op => .subnReg (opX op) (opY op)) ∧
  ∀ (x y : Nibble) (s : State),
    (∃ t, exec (.subReg x y) s = .next t ∧ SameExcept [.reg x, .reg vf] s t ∧
      (readV t vf).toNat = (if (readV s y).toNat ≤ (readV s x).toNat then 1 else 0) ∧
      (x ≠ vf → (readV t x).toNat = ((readV s x).toNat + 256 - (readV s y).toNat) % 256)) ∧
    (∃ t, exec (.subnReg x y) s = .next t ∧ SameExcept [.reg x, .reg vf] s t ∧
      (readV t vf).toNat = (if (readV s x).toNat ≤ (readV s y).toNat then 1 else 0) ∧
      (x ≠ vf → (readV t x).toNat = ((readV s y).toNat + 256 - (readV s x).toNat) % 256))

/-- O23. R128. -/
def Obligations.ShiftRightDropsBitZeroIntoVf : Prop :=
  DecodesAs 0xF00F 0x8006 (fun op => .shr (opX op) (opY op)) ∧
  ∀ (x y : Nibble) (s : State), ∃ t, exec (.shr x y) s = .next t ∧ SameExcept [.reg x, .reg vf] s t ∧
    (readV t vf).toNat = (if s.config.shiftQuirk then readV s x else readV s y).toNat % 2 ∧
    (x ≠ vf → (readV t x).toNat = (if s.config.shiftQuirk then readV s x else readV s y).toNat / 2)

/-- O24. R130. -/
def Obligations.ShiftLeftDropsBitSevenIntoVf : Prop :=
  DecodesAs 0xF00F 0x800E (fun op => .shl (opX op) (opY op)) ∧
  ∀ (x y : Nibble) (s : State), ∃ t, exec (.shl x y) s = .next t ∧ SameExcept [.reg x, .reg vf] s t ∧
    (readV t vf).toNat = (if s.config.shiftQuirk then readV s x else readV s y).toNat / 128 ∧
    (x ≠ vf →
      (readV t x).toNat = 2 * (if s.config.shiftQuirk then readV s x else readV s y).toNat % 256)

/-- O25. R132. The free byte: the spec's decision D24, in the model's form (log 5). -/
def Obligations.RandomByteIsMasked : Prop :=
  DecodesAs 0xF000 0xC000 (fun op => .rnd (opX op) (opNN op)) ∧
  ∀ (x : Nibble) (nn : Byte) (s : State), ∃ t, exec (.rnd x nn) s = .next t ∧
    readV t x = Config.freeByte s.draws &&& nn ∧
    (∀ k, nn.getLsbD k = false → (readV t x).getLsbD k = false) ∧
    t.draws = s.draws + 1 ∧ SameExcept [.reg x, .draws] s t

/-- O26. R140, R142. -/
def Obligations.IndexLoads : Prop :=
  DecodesAs 0xF000 0xA000 (fun op => .ldI (opNNN op)) ∧
  DecodesAs 0xF0FF 0xF029 (fun op => .ldF (opX op)) ∧
  (∀ (nnn : Addr) (s : State), ∃ t, exec (.ldI nnn) s = .next t ∧ t.I.toNat = nnn.toNat ∧
    SameExcept [.index] s t) ∧
  (∀ (x : Nibble) (s : State), ∃ t, exec (.ldF x) s = .next t ∧ t.I.toNat = (readV s x).toNat * 5 ∧
    SameExcept [.index] s t)

/-- O27. R141. The spec's decisions D28 and D21 (log 23, log 21). -/
def Obligations.AddIndexWrapsAtSixteenBits : Prop :=
  DecodesAs 0xF0FF 0xF01E (fun op => .addI (opX op)) ∧
  ∀ (x : Nibble) (s : State), ∃ t, exec (.addI x) s = .next t ∧
    t.I.toNat = (s.I.toNat + (readV s x).toNat) % 65536 ∧ SameExcept [.index] s t

/-- O28. R143, R56. Precise faults and unwrapped addresses: the spec's decisions D13 and D28 (log 15, log 23). -/
def Obligations.DecimalDigitsAreStored : Prop :=
  DecodesAs 0xF0FF 0xF033 (fun op => .ldB (opX op)) ∧
  (∀ (x : Nibble) (s : State), s.memoryCanonical → s.I.toNat + 2 < 4096 →
    ∃ t, exec (.ldB x) s = .next t ∧
      (readByte t s.I.toNat).toNat = (readV s x).toNat / 100 ∧
      (readByte t (s.I.toNat + 1)).toNat = (readV s x).toNat / 10 % 10 ∧
      (readByte t (s.I.toNat + 2)).toNat = (readV s x).toNat % 10 ∧
      (∀ a, a < s.I.toNat ∨ s.I.toNat + 2 < a → readByte t a = readByte s a) ∧
      SameExcept [.memory] s t) ∧
  (∀ (x : Nibble) (s : State), 4096 ≤ s.I.toNat + 2 →
    ∃ t, exec (.ldB x) s = .next t ∧ FaultTaken .memWriteOob s.I.toNat (s.pc - 2) s t)

/-- O29. R144, R56. The spec's decisions D13 and D28 (log 15, log 23). -/
def Obligations.StoreRegistersWritesTheBlock : Prop :=
  DecodesAs 0xF0FF 0xF055 (fun op => .storeRegs (opX op)) ∧
  (∀ (x : Nibble) (s : State), s.memoryCanonical → s.I.toNat + x.toNat < 4096 →
    ∃ t, exec (.storeRegs x) s = .next t ∧
      (∀ r : Nibble, r.toNat ≤ x.toNat → readByte t (s.I.toNat + r.toNat) = readV s r) ∧
      (∀ a, a < s.I.toNat ∨ s.I.toNat + x.toNat < a → readByte t a = readByte s a) ∧
      t.I.toNat = (s.I.toNat + x.toNat + 1) % 65536 ∧ SameExcept [.memory, .index] s t) ∧
  (∀ (x : Nibble) (s : State), 4096 ≤ s.I.toNat + x.toNat →
    ∃ t, exec (.storeRegs x) s = .next t ∧ FaultTaken .memWriteOob s.I.toNat (s.pc - 2) s t)

/-- O30. R145, R56. The spec's decisions D13 and D28 (log 15, log 23). -/
def Obligations.LoadRegistersReadsTheBlock : Prop :=
  DecodesAs 0xF0FF 0xF065 (fun op => .loadRegs (opX op)) ∧
  (∀ (x : Nibble) (s : State), s.I.toNat + x.toNat < 4096 →
    ∃ t, exec (.loadRegs x) s = .next t ∧
      (∀ r : Nibble, r.toNat ≤ x.toNat → readV t r = readByte s (s.I.toNat + r.toNat)) ∧
      (∀ r : Nibble, x.toNat < r.toNat → readV t r = readV s r) ∧
      t.I.toNat = (s.I.toNat + x.toNat + 1) % 65536 ∧
      SameExcept ([.index] ++ (List.range (x.toNat + 1)).map fun k => .reg (BitVec.ofNat 4 k)) s t) ∧
  (∀ (x : Nibble) (s : State), 4096 ≤ s.I.toNat + x.toNat →
    ∃ t, exec (.loadRegs x) s = .next t ∧ FaultTaken .memReadOob s.I.toNat (s.pc - 2) s t)

/-- O31. R144, R145, R58: a read returns the byte last written. -/
def Obligations.LoadBringsBackWhatStoreSaved : Prop :=
  ∀ (x : Nibble) (s t u : State), s.memoryCanonical → s.I.toNat + x.toNat < 4096 →
    exec (.storeRegs x) s = .next t → (∀ a, readByte u a = readByte t a) → u.I = s.I →
    ∃ w, exec (.loadRegs x) u = .next w ∧ ∀ r : Nibble, r.toNat ≤ x.toNat → readV w r = readV s r

/-- O32. R150. -/
def Obligations.ClearBlanksTheFramebuffer : Prop :=
  DecodesAs 0xFFFF 0x00E0 (fun _ => .cls) ∧
  ∀ s : State, ∃ t, exec .cls s = .next t ∧ (∀ i, i < 2048 → readCell t i = false) ∧ t.redraw = true ∧
    SameExcept [.framebuffer, .redraw] s t

/-- O33. R151, R152. The spec's decisions D18, D19 and D13 (log 18, log 19, log 15). -/
def Obligations.DrawInvertsTheCoveredCells : Prop :=
  DecodesAs 0xF000 0xD000 (fun op => .drw (opX op) (opY op) (opN op)) ∧
  (∀ (x y n : Nibble) (s : State), n.toNat = 0 ∨ s.I.toNat + n.toNat - 1 < 4096 →
    ∃ t, exec (.drw x y n) s = .next t ∧
      (∀ i, i < 2048 → (readCell t i ≠ readCell s i ↔
        SpriteCovers s (readV s x).toNat (readV s y).toNat n.toNat i)) ∧
      ((∃ i, SpriteCovers s (readV s x).toNat (readV s y).toNat n.toNat i ∧ readCell s i = true) →
        readV t vf = 1) ∧
      ((∀ i, SpriteCovers s (readV s x).toNat (readV s y).toNat n.toNat i → readCell s i = false) →
        readV t vf = 0) ∧
      t.redraw = true ∧ SameExcept [.reg vf, .framebuffer, .redraw] s t) ∧
  (∀ (x y n : Nibble) (s : State), 0 < n.toNat → 4096 ≤ s.I.toNat + n.toNat - 1 →
    ∃ t, exec (.drw x y n) s = .next t ∧ FaultTaken .memReadOob s.I.toNat (s.pc - 2) s t)

/-- O34. R153, a consequence of R151 the spec marks as derived: XOR is its own inverse. It holds for X or Y = 15
too where the second execution sees the same coordinates. Decisions D18, D19 (log 18, log 19). -/
def Obligations.DrawingTwiceRestoresTheFramebuffer : Prop :=
  ∀ (x y n : Nibble) (s t u : State), n.toNat = 0 ∨ s.I.toNat + n.toNat - 1 < 4096 →
    exec (.drw x y n) s = .next t →
    readV u x = readV s x → readV u y = readV s y → u.I = s.I → (∀ a, readByte u a = readByte s a) →
    (∀ i, readCell u i = readCell t i) →
    ∃ w, exec (.drw x y n) u = .next w ∧ (∀ i, i < 2048 → readCell w i = readCell s i) ∧
      (readV w vf = 1 ↔
        ∃ i, SpriteCovers s (readV s x).toNat (readV s y).toNat n.toNat i ∧ readCell s i = false) ∧
      (readV w vf = 1 ∨ readV w vf = 0)

/-- O35. R160, R161, R166. The fault is the spec's decision D17 (log 17), its record D14 (log 7); that PC + 2 is modulo
65536 is D28 (log 23). -/
def Obligations.SkipOnKey : Prop :=
  DecodesAs 0xF0FF 0xE09E (fun op => .skp (opX op)) ∧
  DecodesAs 0xF0FF 0xE0A1 (fun op => .sknp (opX op)) ∧
  (∀ (x : Nibble) (s : State) (k : Fin 16), (readV s x).toNat = k.val →
    (∃ t, exec (.skp x) s = .next t ∧ SameExcept [.pc] s t ∧
      t.pc.toNat = if keyDown s k = true then (s.pc.toNat + 2) % 65536 else s.pc.toNat) ∧
    (∃ t, exec (.sknp x) s = .next t ∧ SameExcept [.pc] s t ∧
      t.pc.toNat = if keyDown s k = true then s.pc.toNat else (s.pc.toNat + 2) % 65536)) ∧
  (∀ (x : Nibble) (s : State), 15 < (readV s x).toNat →
    (∃ t, exec (.skp x) s = .next t ∧ FaultTaken .keyIndex (readV s x).toNat (s.pc - 2) s t) ∧
    (∃ t, exec (.sknp x) s = .next t ∧ FaultTaken .keyIndex (readV s x).toNat (s.pc - 2) s t))

/-- O36. R162, R163, R164 (R184: the tone follows ST). -/
def Obligations.TimerMoves : Prop :=
  DecodesAs 0xF0FF 0xF007 (fun op => .ldVxDt (opX op)) ∧
  DecodesAs 0xF0FF 0xF015 (fun op => .ldDtVx (opX op)) ∧
  DecodesAs 0xF0FF 0xF018 (fun op => .ldStVx (opX op)) ∧
  ∀ (x : Nibble) (s : State),
    (∃ t, exec (.ldVxDt x) s = .next t ∧ readV t x = s.dt ∧ SameExcept [.reg x] s t) ∧
    (∃ t, exec (.ldDtVx x) s = .next t ∧ t.dt = readV s x ∧ SameExcept [.dt] s t ∧
      (t.status = .running → (tick t).dt.toNat = (readV s x).toNat - 1)) ∧
    (∃ t, exec (.ldStVx x) s = .next t ∧ t.st = readV s x ∧ SameExcept [.st] s t ∧
      (tone t = true ↔ 0 < (readV s x).toNat))

/-- O37. R165. -/
def Obligations.WaitForKeyTakesTheLowestOrRewinds : Prop :=
  DecodesAs 0xF0FF 0xF00A (fun op => .ldVxK (opX op)) ∧
  (∀ (x : Nibble) (s : State) (k : Fin 16), keyDown s k = true → (∀ j, j < k → keyDown s j = false) →
    ∃ t, exec (.ldVxK x) s = .next t ∧ (readV t x).toNat = k.val ∧ SameExcept [.reg x] s t) ∧
  (∀ (x : Nibble) (s : State) (a : Word), (∀ k, keyDown s k = false) → s.pc = a + 2 →
    ∃ t, exec (.ldVxK x) s = .next t ∧ t.pc = a ∧ SameExcept [.pc] s t)

/-- O38. R171 to R173: at most one cause per instruction, and no partial effect. The spec's decisions D13, D14, D17 (log 15, log 7, log 17). -/
def Obligations.FaultsExactlyWhereTheTableSays : Prop :=
  ∀ (i : Instr) (s : State),
    match faultOf i s with
    | some (cause, info) => ∃ t, exec i s = .next t ∧ FaultTaken cause info (s.pc - 2) s t
    | none => ∃ t, exec i s = .next t ∧ t.status = s.status ∧ t.faultCause = s.faultCause ∧
        t.faultInfo = s.faultInfo ∧ t.faultIpc = s.faultIpc

/-- O39. R94, R172. The report as an output is the spec's decision D16 (log 8). -/
def Obligations.ReportsAgreeWithTheState : Prop :=
  ∀ s t : State, step s = .next t →
    let op : Word := readByte s s.pc.toNat ++ readByte s (s.pc.toNat + 1)
    (stepReport s = some .stopped ↔ s.status = .faulted) ∧
    (∀ w a, stepReport s = some (.warn w a) ↔
      s.status = .running ∧ s.pc.toNat ≤ 0xFFE ∧ decode op = none ∧ w = op ∧ a = s.pc) ∧
    (∀ c i a, stepReport s = some (.fault c i a) ↔
      s.status = .running ∧ t.status = .faulted ∧ t.faultCause = c ∧ t.faultInfo = i ∧
        t.faultIpc = a ∧ a = s.pc) ∧
    (stepReport s = some .ok ↔
      s.status = .running ∧ t.status = .running ∧ s.pc.toNat ≤ 0xFFE ∧ (decode op).isSome = true) ∧
    (stepReport s).isSome = true

/-- O40. R25, which the spec marks as derived; the fetch fault and the unmasked PC are its decisions D11 and D28 (log 14, log 23). -/
def Obligations.PcAfterEveryStep : Prop :=
  ∀ s : State, s.status = .running →
    ∃ t, step s = .next t ∧ t.pc.toNat =
      if 0xFFE < s.pc.toNat then s.pc.toNat
      else match decode (readByte s s.pc.toNat ++ readByte s (s.pc.toNat + 1)) with
        | none => s.pc.toNat + 2
        | some i => if faultOf i s = none then pcAfter i s.pc.toNat s else s.pc.toNat + 2

/-- O41. R22, which the spec marks as derived: both columns of the table, the reads as noninterference. -/
def Obligations.RegisterReadsAndWritesAreTheTable : Prop :=
  ∀ (i : Instr) (s t : State), exec i s = .next t →
    (∀ r, ¬ writesReg i s r → readV t r = readV s r) ∧
    (∀ w : Vector Byte 16, (∀ r, readsReg i s r → readV { s with v := w } r = readV s r) →
      ∃ u, exec i { s with v := w } = .next u ∧ { u with v := t.v } = t ∧
        ∀ r, writesReg i s r → readV u r = readV t r)

/-- O42. The "written by" sentences of R22, R23, R25 to R27, R30, R33 to R37. The part `draws` is the model's (log 5). -/
def Obligations.EachInstructionWritesOnlyItsParts : Prop :=
  ∀ (i : Instr) (s t : State), exec i s = .next t → SameExcept (mayWrite i) s t

/-- O43. R34 ("No instruction reads ST"), R35, R36, R38. -/
def Obligations.NoInstructionReadsHostSideState : Prop :=
  ∀ (i : Instr) (s s' : State), visible s = visible s' →
    ∃ t t', exec i s = .next t ∧ exec i s' = .next t' ∧ visible t = visible t'

/-- O44. R37, R38, R199. -/
def Obligations.ConfigurationIsReadOnlyWhereTheSpecSays : Prop :=
  ∀ (i : Instr) (s t : State) (q : Bool) (n : Nat), exec i s = .next t →
    ((∀ x y, x ≠ y → i ≠ .shr x y ∧ i ≠ .shl x y) →
      exec i (reconfigured q n s) = .next (reconfigured q n t)) ∧
    exec i (reconfigured s.config.shiftQuirk n s) = .next (reconfigured s.config.shiftQuirk n t)

/-- O45. R33. -/
def Obligations.InputLatchIsReadByTheKeyInstructionsOnly : Prop :=
  (∀ (s : State) (k : Fin 16) (b : Bool), ∃ t, deliver (.setKey k b) s = .next t ∧ keyDown t k = b ∧
    (∀ j, j ≠ k → keyDown t j = keyDown s j) ∧ { t with key := s.key } = s) ∧
  (∀ s t : State, step s = .next t → t.key = s.key) ∧ (∀ s : State, (tick s).key = s.key) ∧
  (∀ (i : Instr) (s t : State) (w : Vector Bool 16), exec i s = .next t →
    (∀ x, i ≠ .skp x ∧ i ≠ .sknp x ∧ i ≠ .ldVxK x) →
    exec i { s with key := w } = .next { t with key := w })

/-- O46. R35. -/
def Obligations.RedrawIsSetByDrawingAndClearedByTheHost : Prop :=
  (∀ s t : State, exec .cls s = .next t → t.redraw = true) ∧
  (∀ (x y n : Nibble) (s t : State), faultOf (.drw x y n) s = none → exec (.drw x y n) s = .next t →
    t.redraw = true) ∧
  (∀ s t : State, step s = .next t → s.redraw = true → t.redraw = true) ∧
  (∀ s : State, (tick s).redraw = s.redraw) ∧
  (∀ s : State, deliver .ackRedraw s = .next { s with redraw := false }) ∧
  (∀ (i : Instr) (s t : State) (b : Bool), exec i s = .next t →
    ∃ u, exec i { s with redraw := b } = .next u ∧ { u with redraw := t.redraw } = t)

/-- O47. R56, R195: no address above capacity is ever written. The canonical form is the model's choice (log 10). -/
def Obligations.StepKeepsMemoryCanonical : Prop :=
  ∀ s t : State, s.memoryCanonical → step s = .next t → t.memoryCanonical

/-- O48. R24 ("no run can reach the wrap"), R100, R102: bounds the spec derives. -/
def Obligations.StepKeepsPcBounded : Prop :=
  ∀ s t : State, s.PcBounded → step s = .next t → t.PcBounded

/-- O49. R36, R171, R173, R174. The spec's decisions D13, D14, D15 (log 15, log 7). -/
def Obligations.StepKeepsTheFaultRecordTrue : Prop :=
  ∀ s t : State, s.RecordAgrees → step s = .next t → t.RecordAgrees

/-- O50. R97, D27: a claim for every interleaving holds for the scheduler's (log 1). -/
def Obligations.EveryRunKeepsTheInvariants : Prop :=
  ∀ (es : List Event) (s t : State), s.memoryCanonical → s.PcBounded → s.RecordAgrees →
    runEvents es s = .next t → t.memoryCanonical ∧ t.PcBounded ∧ t.RecordAgrees

/-- O51. R40. The spec's decisions D2 to D9, D14 (log 6). -/
def Obligations.ResetMeetsTheInvariants : Prop :=
  (State.reset.memoryCanonical ∧ State.reset.PcBounded ∧ State.reset.RecordAgrees) ∧
  ∀ s : State, (resetEvent s).memoryCanonical ∧ (resetEvent s).PcBounded ∧ (resetEvent s).RecordAgrees

/-- O52. R40, R190. The spec's decisions D2 to D9, D14 (log 6); FONT is a parameter (D8, log 4). -/
def Obligations.ResetPutsEveryPartAtItsValue : Prop :=
  ∀ s : State, ∃ t, deliver .reset s = .next t ∧ (∀ r, readV t r = 0) ∧ t.I = 0 ∧ t.pc = 0x200 ∧
    t.sp = 0 ∧ (∀ k, stackEntry t k = 0) ∧
    (∀ (a : Nat) (h : a < 80), readByte t a = s.config.font[a]) ∧
    (∀ a, 80 ≤ a → readByte t a = 0) ∧ (∀ i, readCell t i = false) ∧ t.redraw = false ∧ t.dt = 0 ∧
    t.st = 0 ∧ (∀ k, keyDown t k = false) ∧ t.status = .running ∧
    faultRecord t = (0, 0, 0) ∧ t.config = s.config ∧ tone t = false

/-- O53. R191. -/
def Obligations.FirstStepAfterLoadFetchesFrom0x200 : Prop :=
  ∀ (s : State) (hi lo : Byte) (rest : Program), (hi :: lo :: rest).length ≤ 3584 →
    ∃ t, runEvents [.reset, .load (hi :: lo :: rest)] s = .next t ∧ t.pc = 0x200 ∧
      (∀ i, decode (hi ++ lo) = some i → step t = exec i { t with pc := 0x202 }) ∧
      (decode (hi ++ lo) = none → step t = .next { t with pc := 0x202 })

/-- O54. R180. That a FAULTED machine does not tick is the spec's decision D15 (log 7). -/
def Obligations.TickCountsBothTimersDown : Prop :=
  (∀ s : State, s.status = .running → ∃ t, deliver .tick s = .next t ∧
    t.dt.toNat = (if 0 < s.dt.toNat then s.dt.toNat - 1 else 0) ∧
    t.st.toNat = (if 0 < s.st.toNat then s.st.toNat - 1 else 0) ∧ SameExcept [.dt, .st] s t) ∧
  (∀ s : State, s.status = .faulted → deliver .tick s = .next s) ∧
  (∀ s : State, frameEvents s = List.replicate (s.config.ips / 60) .step ++ [.tick])

/-- O55. S6, R180. -/
def Obligations.TimersRunDownAndStayAtZero : Prop :=
  ∀ (n : Nat) (s : State), s.status = .running →
    ∃ t, runEvents (List.replicate n .tick) s = .next t ∧ t.dt.toNat = s.dt.toNat - n ∧
      t.st.toNat = s.st.toNat - n ∧ SameExcept [.dt, .st] s t

/-- O56. R96. A fault in the middle of a frame: the spec's decision D31 (log 26). -/
def Obligations.ExternalTickIsIpfStepsThenOneTick : Prop :=
  ∀ s : State, ∃ u, runEvents (List.replicate (s.config.ips / 60) .step) s = .next u ∧
    externalTick s = .next (tick u) ∧
    (s.config.ips < 60 → externalTick s = .next (tick s)) ∧
    (u.status = .faulted → externalTick s = .next u)

/-- O57. R194, R195. All or nothing is the spec's decision D30 (log 13). -/
def Obligations.LoadCopiesTheProgramOrRefusesIt : Prop :=
  ∀ (p : Program) (s : State), s.memoryCanonical →
    (p.length ≤ 3584 → romTooLarge p = false ∧ ∃ t, deliver (.load p) s = .next t ∧
      (∀ (i : Nat) (h : i < p.length), readByte t (0x200 + i) = p[i]) ∧
      (∀ a, a < 0x200 ∨ 0x200 + p.length ≤ a → readByte t a = readByte s a) ∧
      SameExcept [.memory] s t) ∧
    (3584 < p.length → romTooLarge p = true ∧ deliver (.load p) s = .next s)

/-- O58. R193, for any start and any number of zero words. The spec marks it derived; decision D11 (log 14). -/
def Obligations.RunningOffTheEndFaults : Prop :=
  ∀ (k : Nat) (s : State), s.status = .running → s.pc.toNat + 2 * k = 0x1000 →
    (∀ a, s.pc.toNat ≤ a → a < 4096 → readByte s a = 0) →
    ∃ t, runEvents (List.replicate (k + 1) .step) s = .next t ∧ t.status = .faulted ∧
      t.faultCause = .fetchOob ∧ t.faultInfo = 0x1000 ∧ t.faultIpc = 0x1000 ∧ t.pc = 0x1000 ∧
      SameExcept [.pc, .fault] s t

/-- O59. R50, R58: memory is plain storage; the form is the model's choice (log 10). -/
def Obligations.MemoriesThatReadAlikeAreEqual : Prop :=
  ∀ (font : Vector Byte 80) (m m' : Memory), Memory.wf font m → Memory.wf font m' →
    (∀ a, a < 4096 → Memory.read font m a = Memory.read font m' a) → m = m'

/-- O60. R62, R91 (the spec marks R62 derived); withFetchWord is the model's (log 12). -/
def Obligations.StoredBytesAreFetchedByTheNextStep : Prop :=
  (∀ (s t : State) (i : Instr), s.memoryCanonical → s.status = .running → s.I = s.pc →
    s.pc.toNat ≤ 0xFFE → exec (.storeRegs 1) s = .next t →
    decode (readV s 0 ++ readV s 1) = some i → step t = exec i { t with pc := t.pc + 2 }) ∧
  (∀ (s : State) (op : Word) (i : Instr), s.memoryCanonical → decode op = some i →
    step (s.withFetchWord 16 op.toNat) =
      exec i { s.withFetchWord 16 op.toNat with pc := (s.withFetchWord 16 op.toNat).pc + 2 })
end

