-- ==== Sys2Proof/Laws/Decode.lean ====
section
/-! SUPPORT. The fields of a word put together by a format (30_encoding.md R71, R72), the word its fields
make, and what matching under each mask of R75 says of the fields. Every lemma goes through the value of
a field or a format as a natural number, where `omega` decides it. -/

namespace Sys2Proof

/-! ### Values -/

theorem opT_toNat (op : Word) : (opT op).toNat = op.toNat / 4096 := by
  have := op.isLt
  simp only [opT, BitVec.extractLsb'_toNat, Nat.shiftRight_eq_div_pow]; omega

theorem opX_toNat (op : Word) : (opX op).toNat = op.toNat / 256 % 16 := by
  simp only [opX, BitVec.extractLsb'_toNat, Nat.shiftRight_eq_div_pow]

theorem opY_toNat (op : Word) : (opY op).toNat = op.toNat / 16 % 16 := by
  simp only [opY, BitVec.extractLsb'_toNat, Nat.shiftRight_eq_div_pow]

theorem opN_toNat (op : Word) : (opN op).toNat = op.toNat % 16 := by
  simp only [opN, BitVec.extractLsb'_toNat, Nat.shiftRight_eq_div_pow]; omega

theorem opNN_toNat (op : Word) : (opNN op).toNat = op.toNat % 256 := by
  simp only [opNN, BitVec.extractLsb'_toNat, Nat.shiftRight_eq_div_pow]; omega

theorem opNNN_toNat (op : Word) : (opNNN op).toNat = op.toNat % 4096 := by
  simp only [opNNN, BitVec.extractLsb'_toNat, Nat.shiftRight_eq_div_pow]; omega

theorem append_toNat {m n : Nat} (a : BitVec m) (b : BitVec n) :
    (a ++ b).toNat = a.toNat * 2 ^ n + b.toNat := by
  rw [BitVec.toNat_append, ← Nat.shiftLeft_add_eq_or_of_lt b.isLt, Nat.shiftLeft_eq]

theorem formatA_toNat (t : Nibble) (a : Addr) :
    (formatA t a).toNat = t.toNat * 4096 + a.toNat := append_toNat t a

theorem formatI_toNat (t x : Nibble) (nn : Byte) :
    (formatI t x nn).toNat = t.toNat * 4096 + x.toNat * 256 + nn.toNat := by
  rw [formatI]
  refine (append_toNat t (x ++ nn)).trans ?_
  rw [append_toNat]; omega

theorem formatR_toNat (t x y n : Nibble) :
    (formatR t x y n).toNat = t.toNat * 4096 + x.toNat * 256 + y.toNat * 16 + n.toNat := by
  rw [formatR]
  refine (append_toNat t (x ++ (y ++ n))).trans ?_
  rw [append_toNat, append_toNat]; omega

theorem wordOf_toNat (hi lo : Byte) : (wordOf hi lo).toNat = hi.toNat * 256 + lo.toNat :=
  append_toNat hi lo

/-! ### Fields of a formatted word -/

section
variable (t x y n : Nibble) (nn : Byte) (a : Addr)

@[simp] theorem opT_formatA : opT (formatA t a) = t := by
  apply BitVec.eq_of_toNat_eq; rw [opT_toNat, formatA_toNat]; omega
@[simp] theorem opNNN_formatA : opNNN (formatA t a) = a := by
  apply BitVec.eq_of_toNat_eq; rw [opNNN_toNat, formatA_toNat]; omega
@[simp] theorem opT_formatI : opT (formatI t x nn) = t := by
  apply BitVec.eq_of_toNat_eq; rw [opT_toNat, formatI_toNat]; omega
@[simp] theorem opX_formatI : opX (formatI t x nn) = x := by
  apply BitVec.eq_of_toNat_eq; rw [opX_toNat, formatI_toNat]; omega
@[simp] theorem opNN_formatI : opNN (formatI t x nn) = nn := by
  apply BitVec.eq_of_toNat_eq; rw [opNN_toNat, formatI_toNat]; omega
@[simp] theorem opT_formatR : opT (formatR t x y n) = t := by
  apply BitVec.eq_of_toNat_eq; rw [opT_toNat, formatR_toNat]; omega
@[simp] theorem opX_formatR : opX (formatR t x y n) = x := by
  apply BitVec.eq_of_toNat_eq; rw [opX_toNat, formatR_toNat]; omega
@[simp] theorem opY_formatR : opY (formatR t x y n) = y := by
  apply BitVec.eq_of_toNat_eq; rw [opY_toNat, formatR_toNat]; omega
@[simp] theorem opN_formatR : opN (formatR t x y n) = n := by
  apply BitVec.eq_of_toNat_eq; rw [opN_toNat, formatR_toNat]; omega

end

/-! ### A word is what its fields make -/

theorem formatA_fields (op : Word) : formatA (opT op) (opNNN op) = op := by
  apply BitVec.eq_of_toNat_eq; rw [formatA_toNat, opT_toNat, opNNN_toNat]; omega

theorem formatI_fields (op : Word) : formatI (opT op) (opX op) (opNN op) = op := by
  apply BitVec.eq_of_toNat_eq; rw [formatI_toNat, opT_toNat, opX_toNat, opNN_toNat]; omega

theorem formatR_fields (op : Word) : formatR (opT op) (opX op) (opY op) (opN op) = op := by
  apply BitVec.eq_of_toNat_eq; rw [formatR_toNat, opT_toNat, opX_toNat, opY_toNat, opN_toNat]; omega

/-- R53: laid out as memory holds it and put together again, a word is itself. -/
@[simp] theorem wordOf_wordBytes (op : Word) :
    wordOf (op.extractLsb' 8 8) (op.extractLsb' 0 8) = op := by
  apply BitVec.eq_of_toNat_eq
  have := op.isLt
  rw [wordOf_toNat]
  simp only [BitVec.extractLsb'_toNat, Nat.shiftRight_eq_div_pow]; omega

/-! ### Masks (R75): which fields a mask keeps -/

theorem and_mask (op m : Word) : op &&& m =
    formatR (opT op &&& opT m) (opX op &&& opX m) (opY op &&& opY m) (opN op &&& opN m) := by
  rw [← formatR_fields (op &&& m)]
  simp only [opT, opX, opY, opN, BitVec.extractLsb'_and]

theorem formatR_inj {t x y n t' x' y' n' : Nibble} (h : formatR t x y n = formatR t' x' y' n') :
    t = t' ∧ x = x' ∧ y = y' ∧ n = n' := by
  refine ⟨?_, ?_, ?_, ?_⟩
  · simpa using congrArg opT h
  · simpa using congrArg opX h
  · simpa using congrArg opY h
  · simpa using congrArg opN h

/-- Mask F000 keeps T. -/
theorem hits_T (op : Word) (t : Nibble) : op &&& 0xF000#16 = formatR t 0 0 0 ↔ opT op = t := by
  have m : opT 0xF000#16 = BitVec.allOnes 4 ∧ opX 0xF000#16 = 0#4 ∧ opY 0xF000#16 = 0#4 ∧
      opN 0xF000#16 = 0#4 := by decide
  rw [and_mask, m.1, m.2.1, m.2.2.1, m.2.2.2]
  simp only [BitVec.and_allOnes, BitVec.and_zero]
  exact ⟨fun h => (formatR_inj h).1, fun h => by rw [h]; rfl⟩

/-- Mask F00F keeps T and N. -/
theorem hits_TN (op : Word) (t n : Nibble) :
    op &&& 0xF00F#16 = formatR t 0 0 n ↔ opT op = t ∧ opN op = n := by
  have m : opT 0xF00F#16 = BitVec.allOnes 4 ∧ opX 0xF00F#16 = 0#4 ∧ opY 0xF00F#16 = 0#4 ∧
      opN 0xF00F#16 = BitVec.allOnes 4 := by decide
  rw [and_mask, m.1, m.2.1, m.2.2.1, m.2.2.2]
  simp only [BitVec.and_allOnes, BitVec.and_zero]
  exact ⟨fun h => ⟨(formatR_inj h).1, (formatR_inj h).2.2.2⟩, fun h => by rw [h.1, h.2]; rfl⟩

/-- Mask F0FF keeps T and NN. -/
theorem hits_TNN (op : Word) (t y n : Nibble) :
    op &&& 0xF0FF#16 = formatR t 0 y n ↔ opT op = t ∧ opY op = y ∧ opN op = n := by
  have m : opT 0xF0FF#16 = BitVec.allOnes 4 ∧ opX 0xF0FF#16 = 0#4 ∧ opY 0xF0FF#16 = BitVec.allOnes 4 ∧
      opN 0xF0FF#16 = BitVec.allOnes 4 := by decide
  rw [and_mask, m.1, m.2.1, m.2.2.1, m.2.2.2]
  simp only [BitVec.and_allOnes, BitVec.and_zero]
  exact ⟨fun h => ⟨(formatR_inj h).1, (formatR_inj h).2.2⟩, fun h => by rw [h.1, h.2.1, h.2.2]; rfl⟩

/-- NN is Y and N together. -/
theorem opNN_eq (op : Word) (y n : Nibble) (b : Byte) (hb : b.toNat = y.toNat * 16 + n.toNat) :
    opNN op = b ↔ opY op = y ∧ opN op = n := by
  have h : opNN op = b ↔ (opNN op).toNat = b.toNat := BitVec.toNat_inj.symm
  have hy : opY op = y ↔ (opY op).toNat = y.toNat := BitVec.toNat_inj.symm
  have hn : opN op = n ↔ (opN op).toNat = n.toNat := BitVec.toNat_inj.symm
  rw [h, hy, hn, hb, opNN_toNat, opY_toNat, opN_toNat]
  have := y.isLt; have := n.isLt
  omega

end Sys2Proof
end

