-- ==== Sys2Proof/Laws/State.lean ====
section
/-! SUPPORT. What each update of the state leaves in each field and each observer: one lemma per field
per update, so that no proof unfolds a record update. Beside them, the same for the two updates that
recurse over a list (`storeBytes`, `writeRegs`). -/

namespace Sys2Proof.Machine

/-! ### The sizes of R6, as numerals -/

@[simp] theorem memSize_eq : Config.memSize = 4096 := rfl
@[simp] theorem lastFetch_eq : Config.lastFetch = 0xFFE := rfl
@[simp] theorem progBase_eq : Config.progBase = 0x200 := rfl
@[simp] theorem fontBytes_eq : Config.fontBytes = 80 := rfl
@[simp] theorem maxProgram_eq : Config.maxProgram = 3584 := rfl
@[simp] theorem fbW_eq : Config.fbW = 64 := rfl
@[simp] theorem fbH_eq : Config.fbH = 32 := rfl
@[simp] theorem stackDepth_eq : Config.stackDepth = 16 := rfl

variable (s : State)

/-! ### writeV -/

@[simp] theorem writeV_I (x : Nibble) (b : Byte) : (writeV s x b).I = s.I := rfl
@[simp] theorem writeV_pc (x : Nibble) (b : Byte) : (writeV s x b).pc = s.pc := rfl
@[simp] theorem writeV_sp (x : Nibble) (b : Byte) : (writeV s x b).sp = s.sp := rfl
@[simp] theorem writeV_stack (x : Nibble) (b : Byte) : (writeV s x b).stack = s.stack := rfl
@[simp] theorem writeV_mem (x : Nibble) (b : Byte) : (writeV s x b).mem = s.mem := rfl
@[simp] theorem writeV_fb (x : Nibble) (b : Byte) : (writeV s x b).fb = s.fb := rfl
@[simp] theorem writeV_key (x : Nibble) (b : Byte) : (writeV s x b).key = s.key := rfl
@[simp] theorem writeV_dt (x : Nibble) (b : Byte) : (writeV s x b).dt = s.dt := rfl
@[simp] theorem writeV_st (x : Nibble) (b : Byte) : (writeV s x b).st = s.st := rfl
@[simp] theorem writeV_redraw (x : Nibble) (b : Byte) : (writeV s x b).redraw = s.redraw := rfl
@[simp] theorem writeV_status (x : Nibble) (b : Byte) : (writeV s x b).status = s.status := rfl
@[simp] theorem writeV_faultCause (x : Nibble) (b : Byte) : (writeV s x b).faultCause = s.faultCause := rfl
@[simp] theorem writeV_faultInfo (x : Nibble) (b : Byte) : (writeV s x b).faultInfo = s.faultInfo := rfl
@[simp] theorem writeV_faultIpc (x : Nibble) (b : Byte) : (writeV s x b).faultIpc = s.faultIpc := rfl
@[simp] theorem writeV_config (x : Nibble) (b : Byte) : (writeV s x b).config = s.config := rfl
@[simp] theorem writeV_draws (x : Nibble) (b : Byte) : (writeV s x b).draws = s.draws := rfl
@[simp] theorem stackEntry_writeV (x : Nibble) (b : Byte) (j : Fin 16) : stackEntry (writeV s x b) j = stackEntry s j := rfl
@[simp] theorem readByte_writeV (x : Nibble) (b : Byte) (n : Nat) : readByte (writeV s x b) n = readByte s n := rfl
@[simp] theorem readCell_writeV (x : Nibble) (b : Byte) (n : Nat) : readCell (writeV s x b) n = readCell s n := rfl
@[simp] theorem keyDown_writeV (x : Nibble) (b : Byte) (j : Fin 16) : keyDown (writeV s x b) j = keyDown s j := rfl

/-! ### setFlag -/

@[simp] theorem setFlag_I (c : Bool) : (setFlag s c).I = s.I := rfl
@[simp] theorem setFlag_pc (c : Bool) : (setFlag s c).pc = s.pc := rfl
@[simp] theorem setFlag_sp (c : Bool) : (setFlag s c).sp = s.sp := rfl
@[simp] theorem setFlag_stack (c : Bool) : (setFlag s c).stack = s.stack := rfl
@[simp] theorem setFlag_mem (c : Bool) : (setFlag s c).mem = s.mem := rfl
@[simp] theorem setFlag_fb (c : Bool) : (setFlag s c).fb = s.fb := rfl
@[simp] theorem setFlag_key (c : Bool) : (setFlag s c).key = s.key := rfl
@[simp] theorem setFlag_dt (c : Bool) : (setFlag s c).dt = s.dt := rfl
@[simp] theorem setFlag_st (c : Bool) : (setFlag s c).st = s.st := rfl
@[simp] theorem setFlag_redraw (c : Bool) : (setFlag s c).redraw = s.redraw := rfl
@[simp] theorem setFlag_status (c : Bool) : (setFlag s c).status = s.status := rfl
@[simp] theorem setFlag_faultCause (c : Bool) : (setFlag s c).faultCause = s.faultCause := rfl
@[simp] theorem setFlag_faultInfo (c : Bool) : (setFlag s c).faultInfo = s.faultInfo := rfl
@[simp] theorem setFlag_faultIpc (c : Bool) : (setFlag s c).faultIpc = s.faultIpc := rfl
@[simp] theorem setFlag_config (c : Bool) : (setFlag s c).config = s.config := rfl
@[simp] theorem setFlag_draws (c : Bool) : (setFlag s c).draws = s.draws := rfl
@[simp] theorem stackEntry_setFlag (c : Bool) (j : Fin 16) : stackEntry (setFlag s c) j = stackEntry s j := rfl
@[simp] theorem readByte_setFlag (c : Bool) (n : Nat) : readByte (setFlag s c) n = readByte s n := rfl
@[simp] theorem readCell_setFlag (c : Bool) (n : Nat) : readCell (setFlag s c) n = readCell s n := rfl
@[simp] theorem keyDown_setFlag (c : Bool) (j : Fin 16) : keyDown (setFlag s c) j = keyDown s j := rfl

/-! ### writeResultThenFlag -/

@[simp] theorem writeResultThenFlag_I (x : Nibble) (r : Byte) (c : Bool) : (writeResultThenFlag s x r c).I = s.I := rfl
@[simp] theorem writeResultThenFlag_pc (x : Nibble) (r : Byte) (c : Bool) : (writeResultThenFlag s x r c).pc = s.pc := rfl
@[simp] theorem writeResultThenFlag_sp (x : Nibble) (r : Byte) (c : Bool) : (writeResultThenFlag s x r c).sp = s.sp := rfl
@[simp] theorem writeResultThenFlag_stack (x : Nibble) (r : Byte) (c : Bool) : (writeResultThenFlag s x r c).stack = s.stack := rfl
@[simp] theorem writeResultThenFlag_mem (x : Nibble) (r : Byte) (c : Bool) : (writeResultThenFlag s x r c).mem = s.mem := rfl
@[simp] theorem writeResultThenFlag_fb (x : Nibble) (r : Byte) (c : Bool) : (writeResultThenFlag s x r c).fb = s.fb := rfl
@[simp] theorem writeResultThenFlag_key (x : Nibble) (r : Byte) (c : Bool) : (writeResultThenFlag s x r c).key = s.key := rfl
@[simp] theorem writeResultThenFlag_dt (x : Nibble) (r : Byte) (c : Bool) : (writeResultThenFlag s x r c).dt = s.dt := rfl
@[simp] theorem writeResultThenFlag_st (x : Nibble) (r : Byte) (c : Bool) : (writeResultThenFlag s x r c).st = s.st := rfl
@[simp] theorem writeResultThenFlag_redraw (x : Nibble) (r : Byte) (c : Bool) : (writeResultThenFlag s x r c).redraw = s.redraw := rfl
@[simp] theorem writeResultThenFlag_status (x : Nibble) (r : Byte) (c : Bool) : (writeResultThenFlag s x r c).status = s.status := rfl
@[simp] theorem writeResultThenFlag_faultCause (x : Nibble) (r : Byte) (c : Bool) : (writeResultThenFlag s x r c).faultCause = s.faultCause := rfl
@[simp] theorem writeResultThenFlag_faultInfo (x : Nibble) (r : Byte) (c : Bool) : (writeResultThenFlag s x r c).faultInfo = s.faultInfo := rfl
@[simp] theorem writeResultThenFlag_faultIpc (x : Nibble) (r : Byte) (c : Bool) : (writeResultThenFlag s x r c).faultIpc = s.faultIpc := rfl
@[simp] theorem writeResultThenFlag_config (x : Nibble) (r : Byte) (c : Bool) : (writeResultThenFlag s x r c).config = s.config := rfl
@[simp] theorem writeResultThenFlag_draws (x : Nibble) (r : Byte) (c : Bool) : (writeResultThenFlag s x r c).draws = s.draws := rfl
@[simp] theorem stackEntry_writeResultThenFlag (x : Nibble) (r : Byte) (c : Bool) (j : Fin 16) : stackEntry (writeResultThenFlag s x r c) j = stackEntry s j := rfl
@[simp] theorem readByte_writeResultThenFlag (x : Nibble) (r : Byte) (c : Bool) (n : Nat) : readByte (writeResultThenFlag s x r c) n = readByte s n := rfl
@[simp] theorem readCell_writeResultThenFlag (x : Nibble) (r : Byte) (c : Bool) (n : Nat) : readCell (writeResultThenFlag s x r c) n = readCell s n := rfl
@[simp] theorem keyDown_writeResultThenFlag (x : Nibble) (r : Byte) (c : Bool) (j : Fin 16) : keyDown (writeResultThenFlag s x r c) j = keyDown s j := rfl

/-! ### writeByte -/

@[simp] theorem writeByte_v (a : Nat) (b : Byte) : (writeByte s a b).v = s.v := rfl
@[simp] theorem writeByte_I (a : Nat) (b : Byte) : (writeByte s a b).I = s.I := rfl
@[simp] theorem writeByte_pc (a : Nat) (b : Byte) : (writeByte s a b).pc = s.pc := rfl
@[simp] theorem writeByte_sp (a : Nat) (b : Byte) : (writeByte s a b).sp = s.sp := rfl
@[simp] theorem writeByte_stack (a : Nat) (b : Byte) : (writeByte s a b).stack = s.stack := rfl
@[simp] theorem writeByte_mem (a : Nat) (b : Byte) : (writeByte s a b).mem = Memory.write s.config.font s.mem a b := rfl
@[simp] theorem writeByte_fb (a : Nat) (b : Byte) : (writeByte s a b).fb = s.fb := rfl
@[simp] theorem writeByte_key (a : Nat) (b : Byte) : (writeByte s a b).key = s.key := rfl
@[simp] theorem writeByte_dt (a : Nat) (b : Byte) : (writeByte s a b).dt = s.dt := rfl
@[simp] theorem writeByte_st (a : Nat) (b : Byte) : (writeByte s a b).st = s.st := rfl
@[simp] theorem writeByte_redraw (a : Nat) (b : Byte) : (writeByte s a b).redraw = s.redraw := rfl
@[simp] theorem writeByte_status (a : Nat) (b : Byte) : (writeByte s a b).status = s.status := rfl
@[simp] theorem writeByte_faultCause (a : Nat) (b : Byte) : (writeByte s a b).faultCause = s.faultCause := rfl
@[simp] theorem writeByte_faultInfo (a : Nat) (b : Byte) : (writeByte s a b).faultInfo = s.faultInfo := rfl
@[simp] theorem writeByte_faultIpc (a : Nat) (b : Byte) : (writeByte s a b).faultIpc = s.faultIpc := rfl
@[simp] theorem writeByte_config (a : Nat) (b : Byte) : (writeByte s a b).config = s.config := rfl
@[simp] theorem writeByte_draws (a : Nat) (b : Byte) : (writeByte s a b).draws = s.draws := rfl
@[simp] theorem readV_writeByte (a : Nat) (b : Byte) (y : Nibble) : readV (writeByte s a b) y = readV s y := rfl
@[simp] theorem stackEntry_writeByte (a : Nat) (b : Byte) (j : Fin 16) : stackEntry (writeByte s a b) j = stackEntry s j := rfl
@[simp] theorem readCell_writeByte (a : Nat) (b : Byte) (n : Nat) : readCell (writeByte s a b) n = readCell s n := rfl
@[simp] theorem keyDown_writeByte (a : Nat) (b : Byte) (j : Fin 16) : keyDown (writeByte s a b) j = keyDown s j := rfl

/-! ### advancePc -/

@[simp] theorem advancePc_v : (advancePc s).v = s.v := rfl
@[simp] theorem advancePc_I : (advancePc s).I = s.I := rfl
@[simp] theorem advancePc_pc : (advancePc s).pc = s.pc + 2 := rfl
@[simp] theorem advancePc_sp : (advancePc s).sp = s.sp := rfl
@[simp] theorem advancePc_stack : (advancePc s).stack = s.stack := rfl
@[simp] theorem advancePc_mem : (advancePc s).mem = s.mem := rfl
@[simp] theorem advancePc_fb : (advancePc s).fb = s.fb := rfl
@[simp] theorem advancePc_key : (advancePc s).key = s.key := rfl
@[simp] theorem advancePc_dt : (advancePc s).dt = s.dt := rfl
@[simp] theorem advancePc_st : (advancePc s).st = s.st := rfl
@[simp] theorem advancePc_redraw : (advancePc s).redraw = s.redraw := rfl
@[simp] theorem advancePc_status : (advancePc s).status = s.status := rfl
@[simp] theorem advancePc_faultCause : (advancePc s).faultCause = s.faultCause := rfl
@[simp] theorem advancePc_faultInfo : (advancePc s).faultInfo = s.faultInfo := rfl
@[simp] theorem advancePc_faultIpc : (advancePc s).faultIpc = s.faultIpc := rfl
@[simp] theorem advancePc_config : (advancePc s).config = s.config := rfl
@[simp] theorem advancePc_draws : (advancePc s).draws = s.draws := rfl
@[simp] theorem readV_advancePc (y : Nibble) : readV (advancePc s) y = readV s y := rfl
@[simp] theorem stackEntry_advancePc (j : Fin 16) : stackEntry (advancePc s) j = stackEntry s j := rfl
@[simp] theorem readByte_advancePc (n : Nat) : readByte (advancePc s) n = readByte s n := rfl
@[simp] theorem readCell_advancePc (n : Nat) : readCell (advancePc s) n = readCell s n := rfl
@[simp] theorem keyDown_advancePc (j : Fin 16) : keyDown (advancePc s) j = keyDown s j := rfl

/-! ### setPc -/

@[simp] theorem setPc_v (w : Word) : (setPc s w).v = s.v := rfl
@[simp] theorem setPc_I (w : Word) : (setPc s w).I = s.I := rfl
@[simp] theorem setPc_pc (w : Word) : (setPc s w).pc = w := rfl
@[simp] theorem setPc_sp (w : Word) : (setPc s w).sp = s.sp := rfl
@[simp] theorem setPc_stack (w : Word) : (setPc s w).stack = s.stack := rfl
@[simp] theorem setPc_mem (w : Word) : (setPc s w).mem = s.mem := rfl
@[simp] theorem setPc_fb (w : Word) : (setPc s w).fb = s.fb := rfl
@[simp] theorem setPc_key (w : Word) : (setPc s w).key = s.key := rfl
@[simp] theorem setPc_dt (w : Word) : (setPc s w).dt = s.dt := rfl
@[simp] theorem setPc_st (w : Word) : (setPc s w).st = s.st := rfl
@[simp] theorem setPc_redraw (w : Word) : (setPc s w).redraw = s.redraw := rfl
@[simp] theorem setPc_status (w : Word) : (setPc s w).status = s.status := rfl
@[simp] theorem setPc_faultCause (w : Word) : (setPc s w).faultCause = s.faultCause := rfl
@[simp] theorem setPc_faultInfo (w : Word) : (setPc s w).faultInfo = s.faultInfo := rfl
@[simp] theorem setPc_faultIpc (w : Word) : (setPc s w).faultIpc = s.faultIpc := rfl
@[simp] theorem setPc_config (w : Word) : (setPc s w).config = s.config := rfl
@[simp] theorem setPc_draws (w : Word) : (setPc s w).draws = s.draws := rfl
@[simp] theorem readV_setPc (w : Word) (y : Nibble) : readV (setPc s w) y = readV s y := rfl
@[simp] theorem stackEntry_setPc (w : Word) (j : Fin 16) : stackEntry (setPc s w) j = stackEntry s j := rfl
@[simp] theorem readByte_setPc (w : Word) (n : Nat) : readByte (setPc s w) n = readByte s n := rfl
@[simp] theorem readCell_setPc (w : Word) (n : Nat) : readCell (setPc s w) n = readCell s n := rfl
@[simp] theorem keyDown_setPc (w : Word) (j : Fin 16) : keyDown (setPc s w) j = keyDown s j := rfl

/-! ### rewindPc -/

@[simp] theorem rewindPc_v : (rewindPc s).v = s.v := rfl
@[simp] theorem rewindPc_I : (rewindPc s).I = s.I := rfl
@[simp] theorem rewindPc_pc : (rewindPc s).pc = s.pc - 2 := rfl
@[simp] theorem rewindPc_sp : (rewindPc s).sp = s.sp := rfl
@[simp] theorem rewindPc_stack : (rewindPc s).stack = s.stack := rfl
@[simp] theorem rewindPc_mem : (rewindPc s).mem = s.mem := rfl
@[simp] theorem rewindPc_fb : (rewindPc s).fb = s.fb := rfl
@[simp] theorem rewindPc_key : (rewindPc s).key = s.key := rfl
@[simp] theorem rewindPc_dt : (rewindPc s).dt = s.dt := rfl
@[simp] theorem rewindPc_st : (rewindPc s).st = s.st := rfl
@[simp] theorem rewindPc_redraw : (rewindPc s).redraw = s.redraw := rfl
@[simp] theorem rewindPc_status : (rewindPc s).status = s.status := rfl
@[simp] theorem rewindPc_faultCause : (rewindPc s).faultCause = s.faultCause := rfl
@[simp] theorem rewindPc_faultInfo : (rewindPc s).faultInfo = s.faultInfo := rfl
@[simp] theorem rewindPc_faultIpc : (rewindPc s).faultIpc = s.faultIpc := rfl
@[simp] theorem rewindPc_config : (rewindPc s).config = s.config := rfl
@[simp] theorem rewindPc_draws : (rewindPc s).draws = s.draws := rfl
@[simp] theorem readV_rewindPc (y : Nibble) : readV (rewindPc s) y = readV s y := rfl
@[simp] theorem stackEntry_rewindPc (j : Fin 16) : stackEntry (rewindPc s) j = stackEntry s j := rfl
@[simp] theorem readByte_rewindPc (n : Nat) : readByte (rewindPc s) n = readByte s n := rfl
@[simp] theorem readCell_rewindPc (n : Nat) : readCell (rewindPc s) n = readCell s n := rfl
@[simp] theorem keyDown_rewindPc (j : Fin 16) : keyDown (rewindPc s) j = keyDown s j := rfl

/-! ### setI -/

@[simp] theorem setI_v (w : Word) : (setI s w).v = s.v := rfl
@[simp] theorem setI_I (w : Word) : (setI s w).I = w := rfl
@[simp] theorem setI_pc (w : Word) : (setI s w).pc = s.pc := rfl
@[simp] theorem setI_sp (w : Word) : (setI s w).sp = s.sp := rfl
@[simp] theorem setI_stack (w : Word) : (setI s w).stack = s.stack := rfl
@[simp] theorem setI_mem (w : Word) : (setI s w).mem = s.mem := rfl
@[simp] theorem setI_fb (w : Word) : (setI s w).fb = s.fb := rfl
@[simp] theorem setI_key (w : Word) : (setI s w).key = s.key := rfl
@[simp] theorem setI_dt (w : Word) : (setI s w).dt = s.dt := rfl
@[simp] theorem setI_st (w : Word) : (setI s w).st = s.st := rfl
@[simp] theorem setI_redraw (w : Word) : (setI s w).redraw = s.redraw := rfl
@[simp] theorem setI_status (w : Word) : (setI s w).status = s.status := rfl
@[simp] theorem setI_faultCause (w : Word) : (setI s w).faultCause = s.faultCause := rfl
@[simp] theorem setI_faultInfo (w : Word) : (setI s w).faultInfo = s.faultInfo := rfl
@[simp] theorem setI_faultIpc (w : Word) : (setI s w).faultIpc = s.faultIpc := rfl
@[simp] theorem setI_config (w : Word) : (setI s w).config = s.config := rfl
@[simp] theorem setI_draws (w : Word) : (setI s w).draws = s.draws := rfl
@[simp] theorem readV_setI (w : Word) (y : Nibble) : readV (setI s w) y = readV s y := rfl
@[simp] theorem stackEntry_setI (w : Word) (j : Fin 16) : stackEntry (setI s w) j = stackEntry s j := rfl
@[simp] theorem readByte_setI (w : Word) (n : Nat) : readByte (setI s w) n = readByte s n := rfl
@[simp] theorem readCell_setI (w : Word) (n : Nat) : readCell (setI s w) n = readCell s n := rfl
@[simp] theorem keyDown_setI (w : Word) (j : Fin 16) : keyDown (setI s w) j = keyDown s j := rfl

/-! ### setDt -/

@[simp] theorem setDt_v (b : Byte) : (setDt s b).v = s.v := rfl
@[simp] theorem setDt_I (b : Byte) : (setDt s b).I = s.I := rfl
@[simp] theorem setDt_pc (b : Byte) : (setDt s b).pc = s.pc := rfl
@[simp] theorem setDt_sp (b : Byte) : (setDt s b).sp = s.sp := rfl
@[simp] theorem setDt_stack (b : Byte) : (setDt s b).stack = s.stack := rfl
@[simp] theorem setDt_mem (b : Byte) : (setDt s b).mem = s.mem := rfl
@[simp] theorem setDt_fb (b : Byte) : (setDt s b).fb = s.fb := rfl
@[simp] theorem setDt_key (b : Byte) : (setDt s b).key = s.key := rfl
@[simp] theorem setDt_dt (b : Byte) : (setDt s b).dt = b := rfl
@[simp] theorem setDt_st (b : Byte) : (setDt s b).st = s.st := rfl
@[simp] theorem setDt_redraw (b : Byte) : (setDt s b).redraw = s.redraw := rfl
@[simp] theorem setDt_status (b : Byte) : (setDt s b).status = s.status := rfl
@[simp] theorem setDt_faultCause (b : Byte) : (setDt s b).faultCause = s.faultCause := rfl
@[simp] theorem setDt_faultInfo (b : Byte) : (setDt s b).faultInfo = s.faultInfo := rfl
@[simp] theorem setDt_faultIpc (b : Byte) : (setDt s b).faultIpc = s.faultIpc := rfl
@[simp] theorem setDt_config (b : Byte) : (setDt s b).config = s.config := rfl
@[simp] theorem setDt_draws (b : Byte) : (setDt s b).draws = s.draws := rfl
@[simp] theorem readV_setDt (b : Byte) (y : Nibble) : readV (setDt s b) y = readV s y := rfl
@[simp] theorem stackEntry_setDt (b : Byte) (j : Fin 16) : stackEntry (setDt s b) j = stackEntry s j := rfl
@[simp] theorem readByte_setDt (b : Byte) (n : Nat) : readByte (setDt s b) n = readByte s n := rfl
@[simp] theorem readCell_setDt (b : Byte) (n : Nat) : readCell (setDt s b) n = readCell s n := rfl
@[simp] theorem keyDown_setDt (b : Byte) (j : Fin 16) : keyDown (setDt s b) j = keyDown s j := rfl

/-! ### setSt -/

@[simp] theorem setSt_v (b : Byte) : (setSt s b).v = s.v := rfl
@[simp] theorem setSt_I (b : Byte) : (setSt s b).I = s.I := rfl
@[simp] theorem setSt_pc (b : Byte) : (setSt s b).pc = s.pc := rfl
@[simp] theorem setSt_sp (b : Byte) : (setSt s b).sp = s.sp := rfl
@[simp] theorem setSt_stack (b : Byte) : (setSt s b).stack = s.stack := rfl
@[simp] theorem setSt_mem (b : Byte) : (setSt s b).mem = s.mem := rfl
@[simp] theorem setSt_fb (b : Byte) : (setSt s b).fb = s.fb := rfl
@[simp] theorem setSt_key (b : Byte) : (setSt s b).key = s.key := rfl
@[simp] theorem setSt_dt (b : Byte) : (setSt s b).dt = s.dt := rfl
@[simp] theorem setSt_st (b : Byte) : (setSt s b).st = b := rfl
@[simp] theorem setSt_redraw (b : Byte) : (setSt s b).redraw = s.redraw := rfl
@[simp] theorem setSt_status (b : Byte) : (setSt s b).status = s.status := rfl
@[simp] theorem setSt_faultCause (b : Byte) : (setSt s b).faultCause = s.faultCause := rfl
@[simp] theorem setSt_faultInfo (b : Byte) : (setSt s b).faultInfo = s.faultInfo := rfl
@[simp] theorem setSt_faultIpc (b : Byte) : (setSt s b).faultIpc = s.faultIpc := rfl
@[simp] theorem setSt_config (b : Byte) : (setSt s b).config = s.config := rfl
@[simp] theorem setSt_draws (b : Byte) : (setSt s b).draws = s.draws := rfl
@[simp] theorem readV_setSt (b : Byte) (y : Nibble) : readV (setSt s b) y = readV s y := rfl
@[simp] theorem stackEntry_setSt (b : Byte) (j : Fin 16) : stackEntry (setSt s b) j = stackEntry s j := rfl
@[simp] theorem readByte_setSt (b : Byte) (n : Nat) : readByte (setSt s b) n = readByte s n := rfl
@[simp] theorem readCell_setSt (b : Byte) (n : Nat) : readCell (setSt s b) n = readCell s n := rfl
@[simp] theorem keyDown_setSt (b : Byte) (j : Fin 16) : keyDown (setSt s b) j = keyDown s j := rfl

/-! ### stepI -/

@[simp] theorem stepI_v (x : Nibble) : (stepI s x).v = s.v := rfl
@[simp] theorem stepI_I (x : Nibble) : (stepI s x).I = s.I + zext16 x + 1 := rfl
@[simp] theorem stepI_pc (x : Nibble) : (stepI s x).pc = s.pc := rfl
@[simp] theorem stepI_sp (x : Nibble) : (stepI s x).sp = s.sp := rfl
@[simp] theorem stepI_stack (x : Nibble) : (stepI s x).stack = s.stack := rfl
@[simp] theorem stepI_mem (x : Nibble) : (stepI s x).mem = s.mem := rfl
@[simp] theorem stepI_fb (x : Nibble) : (stepI s x).fb = s.fb := rfl
@[simp] theorem stepI_key (x : Nibble) : (stepI s x).key = s.key := rfl
@[simp] theorem stepI_dt (x : Nibble) : (stepI s x).dt = s.dt := rfl
@[simp] theorem stepI_st (x : Nibble) : (stepI s x).st = s.st := rfl
@[simp] theorem stepI_redraw (x : Nibble) : (stepI s x).redraw = s.redraw := rfl
@[simp] theorem stepI_status (x : Nibble) : (stepI s x).status = s.status := rfl
@[simp] theorem stepI_faultCause (x : Nibble) : (stepI s x).faultCause = s.faultCause := rfl
@[simp] theorem stepI_faultInfo (x : Nibble) : (stepI s x).faultInfo = s.faultInfo := rfl
@[simp] theorem stepI_faultIpc (x : Nibble) : (stepI s x).faultIpc = s.faultIpc := rfl
@[simp] theorem stepI_config (x : Nibble) : (stepI s x).config = s.config := rfl
@[simp] theorem stepI_draws (x : Nibble) : (stepI s x).draws = s.draws := rfl
@[simp] theorem readV_stepI (x : Nibble) (y : Nibble) : readV (stepI s x) y = readV s y := rfl
@[simp] theorem stackEntry_stepI (x : Nibble) (j : Fin 16) : stackEntry (stepI s x) j = stackEntry s j := rfl
@[simp] theorem readByte_stepI (x : Nibble) (n : Nat) : readByte (stepI s x) n = readByte s n := rfl
@[simp] theorem readCell_stepI (x : Nibble) (n : Nat) : readCell (stepI s x) n = readCell s n := rfl
@[simp] theorem keyDown_stepI (x : Nibble) (j : Fin 16) : keyDown (stepI s x) j = keyDown s j := rfl

/-! ### showFb -/

@[simp] theorem showFb_v (f : Framebuffer) : (showFb s f).v = s.v := rfl
@[simp] theorem showFb_I (f : Framebuffer) : (showFb s f).I = s.I := rfl
@[simp] theorem showFb_pc (f : Framebuffer) : (showFb s f).pc = s.pc := rfl
@[simp] theorem showFb_sp (f : Framebuffer) : (showFb s f).sp = s.sp := rfl
@[simp] theorem showFb_stack (f : Framebuffer) : (showFb s f).stack = s.stack := rfl
@[simp] theorem showFb_mem (f : Framebuffer) : (showFb s f).mem = s.mem := rfl
@[simp] theorem showFb_fb (f : Framebuffer) : (showFb s f).fb = f := rfl
@[simp] theorem showFb_key (f : Framebuffer) : (showFb s f).key = s.key := rfl
@[simp] theorem showFb_dt (f : Framebuffer) : (showFb s f).dt = s.dt := rfl
@[simp] theorem showFb_st (f : Framebuffer) : (showFb s f).st = s.st := rfl
@[simp] theorem showFb_redraw (f : Framebuffer) : (showFb s f).redraw = true := rfl
@[simp] theorem showFb_status (f : Framebuffer) : (showFb s f).status = s.status := rfl
@[simp] theorem showFb_faultCause (f : Framebuffer) : (showFb s f).faultCause = s.faultCause := rfl
@[simp] theorem showFb_faultInfo (f : Framebuffer) : (showFb s f).faultInfo = s.faultInfo := rfl
@[simp] theorem showFb_faultIpc (f : Framebuffer) : (showFb s f).faultIpc = s.faultIpc := rfl
@[simp] theorem showFb_config (f : Framebuffer) : (showFb s f).config = s.config := rfl
@[simp] theorem showFb_draws (f : Framebuffer) : (showFb s f).draws = s.draws := rfl
@[simp] theorem readV_showFb (f : Framebuffer) (y : Nibble) : readV (showFb s f) y = readV s y := rfl
@[simp] theorem stackEntry_showFb (f : Framebuffer) (j : Fin 16) : stackEntry (showFb s f) j = stackEntry s j := rfl
@[simp] theorem readByte_showFb (f : Framebuffer) (n : Nat) : readByte (showFb s f) n = readByte s n := rfl
@[simp] theorem keyDown_showFb (f : Framebuffer) (j : Fin 16) : keyDown (showFb s f) j = keyDown s j := rfl

/-! ### countDraw -/

@[simp] theorem countDraw_v : (countDraw s).v = s.v := rfl
@[simp] theorem countDraw_I : (countDraw s).I = s.I := rfl
@[simp] theorem countDraw_pc : (countDraw s).pc = s.pc := rfl
@[simp] theorem countDraw_sp : (countDraw s).sp = s.sp := rfl
@[simp] theorem countDraw_stack : (countDraw s).stack = s.stack := rfl
@[simp] theorem countDraw_mem : (countDraw s).mem = s.mem := rfl
@[simp] theorem countDraw_fb : (countDraw s).fb = s.fb := rfl
@[simp] theorem countDraw_key : (countDraw s).key = s.key := rfl
@[simp] theorem countDraw_dt : (countDraw s).dt = s.dt := rfl
@[simp] theorem countDraw_st : (countDraw s).st = s.st := rfl
@[simp] theorem countDraw_redraw : (countDraw s).redraw = s.redraw := rfl
@[simp] theorem countDraw_status : (countDraw s).status = s.status := rfl
@[simp] theorem countDraw_faultCause : (countDraw s).faultCause = s.faultCause := rfl
@[simp] theorem countDraw_faultInfo : (countDraw s).faultInfo = s.faultInfo := rfl
@[simp] theorem countDraw_faultIpc : (countDraw s).faultIpc = s.faultIpc := rfl
@[simp] theorem countDraw_config : (countDraw s).config = s.config := rfl
@[simp] theorem countDraw_draws : (countDraw s).draws = s.draws + 1 := rfl
@[simp] theorem readV_countDraw (y : Nibble) : readV (countDraw s) y = readV s y := rfl
@[simp] theorem stackEntry_countDraw (j : Fin 16) : stackEntry (countDraw s) j = stackEntry s j := rfl
@[simp] theorem readByte_countDraw (n : Nat) : readByte (countDraw s) n = readByte s n := rfl
@[simp] theorem readCell_countDraw (n : Nat) : readCell (countDraw s) n = readCell s n := rfl
@[simp] theorem keyDown_countDraw (j : Fin 16) : keyDown (countDraw s) j = keyDown s j := rfl

/-! ### takeFault -/

@[simp] theorem takeFault_v (c : FaultCause) (i a : Word) : (takeFault c i a s).v = s.v := rfl
@[simp] theorem takeFault_I (c : FaultCause) (i a : Word) : (takeFault c i a s).I = s.I := rfl
@[simp] theorem takeFault_pc (c : FaultCause) (i a : Word) : (takeFault c i a s).pc = s.pc := rfl
@[simp] theorem takeFault_sp (c : FaultCause) (i a : Word) : (takeFault c i a s).sp = s.sp := rfl
@[simp] theorem takeFault_stack (c : FaultCause) (i a : Word) : (takeFault c i a s).stack = s.stack := rfl
@[simp] theorem takeFault_mem (c : FaultCause) (i a : Word) : (takeFault c i a s).mem = s.mem := rfl
@[simp] theorem takeFault_fb (c : FaultCause) (i a : Word) : (takeFault c i a s).fb = s.fb := rfl
@[simp] theorem takeFault_key (c : FaultCause) (i a : Word) : (takeFault c i a s).key = s.key := rfl
@[simp] theorem takeFault_dt (c : FaultCause) (i a : Word) : (takeFault c i a s).dt = s.dt := rfl
@[simp] theorem takeFault_st (c : FaultCause) (i a : Word) : (takeFault c i a s).st = s.st := rfl
@[simp] theorem takeFault_redraw (c : FaultCause) (i a : Word) : (takeFault c i a s).redraw = s.redraw := rfl
@[simp] theorem takeFault_status (c : FaultCause) (i a : Word) : (takeFault c i a s).status = .faulted := rfl
@[simp] theorem takeFault_faultCause (c : FaultCause) (i a : Word) : (takeFault c i a s).faultCause = c := rfl
@[simp] theorem takeFault_faultInfo (c : FaultCause) (i a : Word) : (takeFault c i a s).faultInfo = i := rfl
@[simp] theorem takeFault_faultIpc (c : FaultCause) (i a : Word) : (takeFault c i a s).faultIpc = a := rfl
@[simp] theorem takeFault_config (c : FaultCause) (i a : Word) : (takeFault c i a s).config = s.config := rfl
@[simp] theorem takeFault_draws (c : FaultCause) (i a : Word) : (takeFault c i a s).draws = s.draws := rfl
@[simp] theorem readV_takeFault (c : FaultCause) (i a : Word) (y : Nibble) : readV (takeFault c i a s) y = readV s y := rfl
@[simp] theorem stackEntry_takeFault (c : FaultCause) (i a : Word) (j : Fin 16) : stackEntry (takeFault c i a s) j = stackEntry s j := rfl
@[simp] theorem readByte_takeFault (c : FaultCause) (i a : Word) (n : Nat) : readByte (takeFault c i a s) n = readByte s n := rfl
@[simp] theorem readCell_takeFault (c : FaultCause) (i a : Word) (n : Nat) : readCell (takeFault c i a s) n = readCell s n := rfl
@[simp] theorem keyDown_takeFault (c : FaultCause) (i a : Word) (j : Fin 16) : keyDown (takeFault c i a s) j = keyDown s j := rfl

/-! ### skipIf -/

@[simp] theorem skipIf_v (c : Bool) : (skipIf c s).v = s.v := by cases c <;> rfl
@[simp] theorem skipIf_I (c : Bool) : (skipIf c s).I = s.I := by cases c <;> rfl
@[simp] theorem skipIf_pc (c : Bool) : (skipIf c s).pc = if c then s.pc + 2 else s.pc := by cases c <;> rfl
@[simp] theorem skipIf_sp (c : Bool) : (skipIf c s).sp = s.sp := by cases c <;> rfl
@[simp] theorem skipIf_stack (c : Bool) : (skipIf c s).stack = s.stack := by cases c <;> rfl
@[simp] theorem skipIf_mem (c : Bool) : (skipIf c s).mem = s.mem := by cases c <;> rfl
@[simp] theorem skipIf_fb (c : Bool) : (skipIf c s).fb = s.fb := by cases c <;> rfl
@[simp] theorem skipIf_key (c : Bool) : (skipIf c s).key = s.key := by cases c <;> rfl
@[simp] theorem skipIf_dt (c : Bool) : (skipIf c s).dt = s.dt := by cases c <;> rfl
@[simp] theorem skipIf_st (c : Bool) : (skipIf c s).st = s.st := by cases c <;> rfl
@[simp] theorem skipIf_redraw (c : Bool) : (skipIf c s).redraw = s.redraw := by cases c <;> rfl
@[simp] theorem skipIf_status (c : Bool) : (skipIf c s).status = s.status := by cases c <;> rfl
@[simp] theorem skipIf_faultCause (c : Bool) : (skipIf c s).faultCause = s.faultCause := by cases c <;> rfl
@[simp] theorem skipIf_faultInfo (c : Bool) : (skipIf c s).faultInfo = s.faultInfo := by cases c <;> rfl
@[simp] theorem skipIf_faultIpc (c : Bool) : (skipIf c s).faultIpc = s.faultIpc := by cases c <;> rfl
@[simp] theorem skipIf_config (c : Bool) : (skipIf c s).config = s.config := by cases c <;> rfl
@[simp] theorem skipIf_draws (c : Bool) : (skipIf c s).draws = s.draws := by cases c <;> rfl
@[simp] theorem readV_skipIf (c : Bool) (y : Nibble) : readV (skipIf c s) y = readV s y := by cases c <;> rfl
@[simp] theorem stackEntry_skipIf (c : Bool) (j : Fin 16) : stackEntry (skipIf c s) j = stackEntry s j := by cases c <;> rfl
@[simp] theorem readByte_skipIf (c : Bool) (n : Nat) : readByte (skipIf c s) n = readByte s n := by cases c <;> rfl
@[simp] theorem readCell_skipIf (c : Bool) (n : Nat) : readCell (skipIf c s) n = readCell s n := by cases c <;> rfl
@[simp] theorem keyDown_skipIf (c : Bool) (j : Fin 16) : keyDown (skipIf c s) j = keyDown s j := by cases c <;> rfl

/-! ### push -/

@[simp] theorem push_v (w : Word) : (push s w).v = s.v := by unfold push; split <;> rfl
@[simp] theorem push_I (w : Word) : (push s w).I = s.I := by unfold push; split <;> rfl
@[simp] theorem push_pc (w : Word) : (push s w).pc = s.pc := by unfold push; split <;> rfl
@[simp] theorem push_mem (w : Word) : (push s w).mem = s.mem := by unfold push; split <;> rfl
@[simp] theorem push_fb (w : Word) : (push s w).fb = s.fb := by unfold push; split <;> rfl
@[simp] theorem push_key (w : Word) : (push s w).key = s.key := by unfold push; split <;> rfl
@[simp] theorem push_dt (w : Word) : (push s w).dt = s.dt := by unfold push; split <;> rfl
@[simp] theorem push_st (w : Word) : (push s w).st = s.st := by unfold push; split <;> rfl
@[simp] theorem push_redraw (w : Word) : (push s w).redraw = s.redraw := by unfold push; split <;> rfl
@[simp] theorem push_status (w : Word) : (push s w).status = s.status := by unfold push; split <;> rfl
@[simp] theorem push_faultCause (w : Word) : (push s w).faultCause = s.faultCause := by unfold push; split <;> rfl
@[simp] theorem push_faultInfo (w : Word) : (push s w).faultInfo = s.faultInfo := by unfold push; split <;> rfl
@[simp] theorem push_faultIpc (w : Word) : (push s w).faultIpc = s.faultIpc := by unfold push; split <;> rfl
@[simp] theorem push_config (w : Word) : (push s w).config = s.config := by unfold push; split <;> rfl
@[simp] theorem push_draws (w : Word) : (push s w).draws = s.draws := by unfold push; split <;> rfl
@[simp] theorem readV_push (w : Word) (y : Nibble) : readV (push s w) y = readV s y := by unfold push; split <;> rfl
@[simp] theorem readByte_push (w : Word) (n : Nat) : readByte (push s w) n = readByte s n := by unfold push; split <;> rfl
@[simp] theorem readCell_push (w : Word) (n : Nat) : readCell (push s w) n = readCell s n := by unfold push; split <;> rfl
@[simp] theorem keyDown_push (w : Word) (j : Fin 16) : keyDown (push s w) j = keyDown s j := by unfold push; split <;> rfl

/-! ### popPc -/

@[simp] theorem popPc_v : (popPc s).v = s.v := by unfold popPc; split <;> rfl
@[simp] theorem popPc_I : (popPc s).I = s.I := by unfold popPc; split <;> rfl
@[simp] theorem popPc_stack : (popPc s).stack = s.stack := by unfold popPc; split <;> rfl
@[simp] theorem popPc_mem : (popPc s).mem = s.mem := by unfold popPc; split <;> rfl
@[simp] theorem popPc_fb : (popPc s).fb = s.fb := by unfold popPc; split <;> rfl
@[simp] theorem popPc_key : (popPc s).key = s.key := by unfold popPc; split <;> rfl
@[simp] theorem popPc_dt : (popPc s).dt = s.dt := by unfold popPc; split <;> rfl
@[simp] theorem popPc_st : (popPc s).st = s.st := by unfold popPc; split <;> rfl
@[simp] theorem popPc_redraw : (popPc s).redraw = s.redraw := by unfold popPc; split <;> rfl
@[simp] theorem popPc_status : (popPc s).status = s.status := by unfold popPc; split <;> rfl
@[simp] theorem popPc_faultCause : (popPc s).faultCause = s.faultCause := by unfold popPc; split <;> rfl
@[simp] theorem popPc_faultInfo : (popPc s).faultInfo = s.faultInfo := by unfold popPc; split <;> rfl
@[simp] theorem popPc_faultIpc : (popPc s).faultIpc = s.faultIpc := by unfold popPc; split <;> rfl
@[simp] theorem popPc_config : (popPc s).config = s.config := by unfold popPc; split <;> rfl
@[simp] theorem popPc_draws : (popPc s).draws = s.draws := by unfold popPc; split <;> rfl
@[simp] theorem readV_popPc (y : Nibble) : readV (popPc s) y = readV s y := by unfold popPc; split <;> rfl
@[simp] theorem stackEntry_popPc (j : Fin 16) : stackEntry (popPc s) j = stackEntry s j := by unfold popPc; split <;> rfl
@[simp] theorem readByte_popPc (n : Nat) : readByte (popPc s) n = readByte s n := by unfold popPc; split <;> rfl
@[simp] theorem readCell_popPc (n : Nat) : readCell (popPc s) n = readCell s n := by unfold popPc; split <;> rfl
@[simp] theorem keyDown_popPc (j : Fin 16) : keyDown (popPc s) j = keyDown s j := by unfold popPc; split <;> rfl

/-! ### storeBytes and writeRegs: everything but memory, everything but the registers -/

@[simp] theorem storeBytes_v (bs : List Byte) : ∀ (s : State) (a : Nat), (storeBytes s a bs).v = s.v := by
  induction bs with
  | nil => intro s a; rfl
  | cons b bs ih => intro s a; simp [storeBytes, ih]
@[simp] theorem storeBytes_I (bs : List Byte) : ∀ (s : State) (a : Nat), (storeBytes s a bs).I = s.I := by
  induction bs with
  | nil => intro s a; rfl
  | cons b bs ih => intro s a; simp [storeBytes, ih]
@[simp] theorem storeBytes_pc (bs : List Byte) : ∀ (s : State) (a : Nat), (storeBytes s a bs).pc = s.pc := by
  induction bs with
  | nil => intro s a; rfl
  | cons b bs ih => intro s a; simp [storeBytes, ih]
@[simp] theorem storeBytes_sp (bs : List Byte) : ∀ (s : State) (a : Nat), (storeBytes s a bs).sp = s.sp := by
  induction bs with
  | nil => intro s a; rfl
  | cons b bs ih => intro s a; simp [storeBytes, ih]
@[simp] theorem storeBytes_stack (bs : List Byte) : ∀ (s : State) (a : Nat), (storeBytes s a bs).stack = s.stack := by
  induction bs with
  | nil => intro s a; rfl
  | cons b bs ih => intro s a; simp [storeBytes, ih]
@[simp] theorem storeBytes_fb (bs : List Byte) : ∀ (s : State) (a : Nat), (storeBytes s a bs).fb = s.fb := by
  induction bs with
  | nil => intro s a; rfl
  | cons b bs ih => intro s a; simp [storeBytes, ih]
@[simp] theorem storeBytes_key (bs : List Byte) : ∀ (s : State) (a : Nat), (storeBytes s a bs).key = s.key := by
  induction bs with
  | nil => intro s a; rfl
  | cons b bs ih => intro s a; simp [storeBytes, ih]
@[simp] theorem storeBytes_dt (bs : List Byte) : ∀ (s : State) (a : Nat), (storeBytes s a bs).dt = s.dt := by
  induction bs with
  | nil => intro s a; rfl
  | cons b bs ih => intro s a; simp [storeBytes, ih]
@[simp] theorem storeBytes_st (bs : List Byte) : ∀ (s : State) (a : Nat), (storeBytes s a bs).st = s.st := by
  induction bs with
  | nil => intro s a; rfl
  | cons b bs ih => intro s a; simp [storeBytes, ih]
@[simp] theorem storeBytes_redraw (bs : List Byte) : ∀ (s : State) (a : Nat), (storeBytes s a bs).redraw = s.redraw := by
  induction bs with
  | nil => intro s a; rfl
  | cons b bs ih => intro s a; simp [storeBytes, ih]
@[simp] theorem storeBytes_status (bs : List Byte) : ∀ (s : State) (a : Nat), (storeBytes s a bs).status = s.status := by
  induction bs with
  | nil => intro s a; rfl
  | cons b bs ih => intro s a; simp [storeBytes, ih]
@[simp] theorem storeBytes_faultCause (bs : List Byte) : ∀ (s : State) (a : Nat), (storeBytes s a bs).faultCause = s.faultCause := by
  induction bs with
  | nil => intro s a; rfl
  | cons b bs ih => intro s a; simp [storeBytes, ih]
@[simp] theorem storeBytes_faultInfo (bs : List Byte) : ∀ (s : State) (a : Nat), (storeBytes s a bs).faultInfo = s.faultInfo := by
  induction bs with
  | nil => intro s a; rfl
  | cons b bs ih => intro s a; simp [storeBytes, ih]
@[simp] theorem storeBytes_faultIpc (bs : List Byte) : ∀ (s : State) (a : Nat), (storeBytes s a bs).faultIpc = s.faultIpc := by
  induction bs with
  | nil => intro s a; rfl
  | cons b bs ih => intro s a; simp [storeBytes, ih]
@[simp] theorem storeBytes_config (bs : List Byte) : ∀ (s : State) (a : Nat), (storeBytes s a bs).config = s.config := by
  induction bs with
  | nil => intro s a; rfl
  | cons b bs ih => intro s a; simp [storeBytes, ih]
@[simp] theorem storeBytes_draws (bs : List Byte) : ∀ (s : State) (a : Nat), (storeBytes s a bs).draws = s.draws := by
  induction bs with
  | nil => intro s a; rfl
  | cons b bs ih => intro s a; simp [storeBytes, ih]
@[simp] theorem readV_storeBytes (bs : List Byte) (a : Nat) (y : Nibble) :
    readV (storeBytes s a bs) y = readV s y := by simp [readV]
@[simp] theorem stackEntry_storeBytes (bs : List Byte) (a : Nat) (j : Fin 16) :
    stackEntry (storeBytes s a bs) j = stackEntry s j := by simp [stackEntry]
@[simp] theorem readCell_storeBytes (bs : List Byte) (a : Nat) (n : Nat) :
    readCell (storeBytes s a bs) n = readCell s n := by simp [readCell]
@[simp] theorem keyDown_storeBytes (bs : List Byte) (a : Nat) (j : Fin 16) :
    keyDown (storeBytes s a bs) j = keyDown s j := by simp [keyDown]
@[simp] theorem writeRegs_I (bs : List Byte) : ∀ (s : State) (k : Nat), (writeRegs s k bs).I = s.I := by
  induction bs with
  | nil => intro s k; rfl
  | cons b bs ih => intro s k; simp [writeRegs, ih]
@[simp] theorem writeRegs_pc (bs : List Byte) : ∀ (s : State) (k : Nat), (writeRegs s k bs).pc = s.pc := by
  induction bs with
  | nil => intro s k; rfl
  | cons b bs ih => intro s k; simp [writeRegs, ih]
@[simp] theorem writeRegs_sp (bs : List Byte) : ∀ (s : State) (k : Nat), (writeRegs s k bs).sp = s.sp := by
  induction bs with
  | nil => intro s k; rfl
  | cons b bs ih => intro s k; simp [writeRegs, ih]
@[simp] theorem writeRegs_stack (bs : List Byte) : ∀ (s : State) (k : Nat), (writeRegs s k bs).stack = s.stack := by
  induction bs with
  | nil => intro s k; rfl
  | cons b bs ih => intro s k; simp [writeRegs, ih]
@[simp] theorem writeRegs_mem (bs : List Byte) : ∀ (s : State) (k : Nat), (writeRegs s k bs).mem = s.mem := by
  induction bs with
  | nil => intro s k; rfl
  | cons b bs ih => intro s k; simp [writeRegs, ih]
@[simp] theorem writeRegs_fb (bs : List Byte) : ∀ (s : State) (k : Nat), (writeRegs s k bs).fb = s.fb := by
  induction bs with
  | nil => intro s k; rfl
  | cons b bs ih => intro s k; simp [writeRegs, ih]
@[simp] theorem writeRegs_key (bs : List Byte) : ∀ (s : State) (k : Nat), (writeRegs s k bs).key = s.key := by
  induction bs with
  | nil => intro s k; rfl
  | cons b bs ih => intro s k; simp [writeRegs, ih]
@[simp] theorem writeRegs_dt (bs : List Byte) : ∀ (s : State) (k : Nat), (writeRegs s k bs).dt = s.dt := by
  induction bs with
  | nil => intro s k; rfl
  | cons b bs ih => intro s k; simp [writeRegs, ih]
@[simp] theorem writeRegs_st (bs : List Byte) : ∀ (s : State) (k : Nat), (writeRegs s k bs).st = s.st := by
  induction bs with
  | nil => intro s k; rfl
  | cons b bs ih => intro s k; simp [writeRegs, ih]
@[simp] theorem writeRegs_redraw (bs : List Byte) : ∀ (s : State) (k : Nat), (writeRegs s k bs).redraw = s.redraw := by
  induction bs with
  | nil => intro s k; rfl
  | cons b bs ih => intro s k; simp [writeRegs, ih]
@[simp] theorem writeRegs_status (bs : List Byte) : ∀ (s : State) (k : Nat), (writeRegs s k bs).status = s.status := by
  induction bs with
  | nil => intro s k; rfl
  | cons b bs ih => intro s k; simp [writeRegs, ih]
@[simp] theorem writeRegs_faultCause (bs : List Byte) : ∀ (s : State) (k : Nat), (writeRegs s k bs).faultCause = s.faultCause := by
  induction bs with
  | nil => intro s k; rfl
  | cons b bs ih => intro s k; simp [writeRegs, ih]
@[simp] theorem writeRegs_faultInfo (bs : List Byte) : ∀ (s : State) (k : Nat), (writeRegs s k bs).faultInfo = s.faultInfo := by
  induction bs with
  | nil => intro s k; rfl
  | cons b bs ih => intro s k; simp [writeRegs, ih]
@[simp] theorem writeRegs_faultIpc (bs : List Byte) : ∀ (s : State) (k : Nat), (writeRegs s k bs).faultIpc = s.faultIpc := by
  induction bs with
  | nil => intro s k; rfl
  | cons b bs ih => intro s k; simp [writeRegs, ih]
@[simp] theorem writeRegs_config (bs : List Byte) : ∀ (s : State) (k : Nat), (writeRegs s k bs).config = s.config := by
  induction bs with
  | nil => intro s k; rfl
  | cons b bs ih => intro s k; simp [writeRegs, ih]
@[simp] theorem writeRegs_draws (bs : List Byte) : ∀ (s : State) (k : Nat), (writeRegs s k bs).draws = s.draws := by
  induction bs with
  | nil => intro s k; rfl
  | cons b bs ih => intro s k; simp [writeRegs, ih]
@[simp] theorem stackEntry_writeRegs (bs : List Byte) (k : Nat) (j : Fin 16) :
    stackEntry (writeRegs s k bs) j = stackEntry s j := by simp [stackEntry]
@[simp] theorem readByte_writeRegs (bs : List Byte) (k : Nat) (n : Nat) :
    readByte (writeRegs s k bs) n = readByte s n := by simp [readByte]
@[simp] theorem readCell_writeRegs (bs : List Byte) (k : Nat) (n : Nat) :
    readCell (writeRegs s k bs) n = readCell s n := by simp [readCell]
@[simp] theorem keyDown_writeRegs (bs : List Byte) (k : Nat) (j : Fin 16) :
    keyDown (writeRegs s k bs) j = keyDown s j := by simp [keyDown]

end Sys2Proof.Machine
end

