-- ==== Sys2Proof/Laws/Framebuffer.lean ====
section
/-! SUPPORT. The framebuffer (10_state.md R30, R31; 44_display.md R151, R152): what one flip does to every
cell, which cells a sprite's bits fall on, and what drawing a sprite does to every cell and to the
collision flag. Within one sprite no cell is touched twice (R151, corner case 4). -/

namespace Sys2Proof.Machine

@[simp] theorem Framebuffer.cell_blank (i : Nat) : Framebuffer.blank.cell i = false := by
  unfold Framebuffer.cell Framebuffer.blank
  split <;> simp

theorem Framebuffer.cell_flip (fb : Framebuffer) (i j : Nat) (hi : i < 2048) :
    (fb.flip i).cell j = (fb.cell j ^^ decide (i = j)) := by
  have hr : i / Config.fbW < Config.fbH := by simp only [Config.fbW, Config.fbH]; omega
  unfold Framebuffer.cell Framebuffer.flip
  rw [dif_pos hr]
  by_cases hj : j / Config.fbW < Config.fbH
  · rw [dif_pos hj, dif_pos hj, Vector.getElem_set]
    split
    · rename_i h
      rw [BitVec.getLsbD_xor, BitVec.getLsbD_twoPow]
      have e : (i % Config.fbW = j % Config.fbW) ↔ (i = j) := by
        simp only [Config.fbW] at *; omega
      have hm' : i % Config.fbW < 64 := Nat.mod_lt _ (by decide)
      simp [h, hm', e]
    · rename_i h
      have : i ≠ j := fun e => h (by rw [e])
      simp [this]
  · rw [dif_neg hj, dif_neg hj]
    have : i ≠ j := by simp only [Config.fbW, Config.fbH] at *; omega
    simp [this]

/-! ### Which cells a sprite's bits fall on -/

theorem pixelIndex_lt (x0 y0 row col : Nat) : pixelIndex x0 y0 row col < 2048 :=
  Nat.mod_lt _ (by decide)

/-- R152: the final `mod 2048` never changes anything. -/
theorem pixelIndex_eq (x0 y0 row col : Nat) :
    pixelIndex x0 y0 row col = 64 * ((y0 + row) % 32) + (x0 + col) % 64 := by
  simp only [pixelIndex, Config.fbW, Config.fbH]; omega

theorem mem_rowPixels (x0 y0 row : Nat) (b : Byte) (i : Nat) :
    i ∈ rowPixels x0 y0 row b ↔
      ∃ col, col < 8 ∧ b.getLsbD (7 - col) = true ∧ i = pixelIndex x0 y0 row col := by
  simp only [rowPixels, List.mem_map, List.mem_filter, List.mem_range, and_assoc]
  constructor
  · rintro ⟨col, h, hb, e⟩; exact ⟨col, h, hb, e.symm⟩
  · rintro ⟨col, h, hb, e⟩; exact ⟨col, h, hb, e.symm⟩

theorem mem_spritePixels (x0 y0 i : Nat) (bs : List Byte) : ∀ row,
    i ∈ spritePixels x0 y0 row bs ↔
      ∃ r, ∃ h : r < bs.length, ∃ col, col < 8 ∧ bs[r].getLsbD (7 - col) = true ∧
        i = pixelIndex x0 y0 (row + r) col := by
  induction bs with
  | nil => intro row; simp [spritePixels]
  | cons b bs ih =>
    intro row
    rw [spritePixels, List.mem_append, mem_rowPixels, ih]
    constructor
    · rintro (h | ⟨r, h, h'⟩)
      · exact ⟨0, by simp, by simpa using h⟩
      · refine ⟨r + 1, by simpa using h, ?_⟩
        have e : row + (r + 1) = row + 1 + r := by omega
        simpa [e] using h'
    · rintro ⟨r, h, h'⟩
      cases r with
      | zero => exact .inl (by simpa using h')
      | succ r =>
        refine .inr ⟨r, by simpa using h, ?_⟩
        have e : row + (r + 1) = row + 1 + r := by omega
        simpa [e] using h'

theorem spritePixels_lt {x0 y0 row i : Nat} {bs : List Byte} (h : i ∈ spritePixels x0 y0 row bs) :
    i < 2048 := by
  obtain ⟨r, _, col, _, _, e⟩ := (mem_spritePixels x0 y0 i bs row).1 h
  exact e ▸ pixelIndex_lt _ _ _ _

theorem rowPixels_nodup (x0 y0 row : Nat) (b : Byte) : (rowPixels x0 y0 row b).Nodup := by
  refine (List.nodup_map_iff_inj_on (List.nodup_range.filter _)).2 fun c hc d hd e => ?_
  have h1 : c < 8 := List.mem_range.1 (List.mem_filter.1 hc).1
  have h2 : d < 8 := List.mem_range.1 (List.mem_filter.1 hd).1
  rw [pixelIndex_eq, pixelIndex_eq] at e
  omega

/-- R151, corner case 4: at most 32 rows give different cells. -/
theorem spritePixels_nodup (x0 y0 : Nat) (bs : List Byte) : ∀ row, bs.length ≤ 32 →
    (spritePixels x0 y0 row bs).Nodup := by
  induction bs with
  | nil => intro row _; simp [spritePixels]
  | cons b bs ih =>
    intro row h
    simp only [List.length_cons] at h
    rw [spritePixels]
    refine List.Nodup.append (rowPixels_nodup _ _ _ _) (ih _ (by omega)) ?_
    intro i hi hj
    obtain ⟨c, hc, _, e⟩ := (mem_rowPixels _ _ _ _ _).1 hi
    obtain ⟨r, hr, d, hd, _, e'⟩ := (mem_spritePixels _ _ _ _ _).1 hj
    rw [pixelIndex_eq] at e e'
    omega

/-! ### Drawing -/

theorem foldl_plot (l : List Nat) : ∀ (fb : Framebuffer) (hit : Bool), l.Nodup → (∀ i ∈ l, i < 2048) →
    (∀ j, (l.foldl plot (fb, hit)).1.cell j = (fb.cell j ^^ decide (j ∈ l))) ∧
      (l.foldl plot (fb, hit)).2 = (hit || l.any fun i => fb.cell i) := by
  induction l with
  | nil => intro fb hit _ _; simp
  | cons i l ih =>
    intro fb hit hn hl
    rw [List.nodup_cons] at hn
    have hi : i < 2048 := hl i (by simp)
    obtain ⟨h1, h2⟩ := ih (fb.flip i) (hit || fb.cell i) hn.2 fun j hj => hl j (by simp [hj])
    rw [List.foldl_cons]
    refine ⟨fun j => ?_, ?_⟩
    · show (l.foldl plot (fb.flip i, hit || fb.cell i)).1.cell j = _
      rw [h1 j, Framebuffer.cell_flip fb i j hi]
      by_cases e : i = j
      · subst e; simp [hn.1]
      · simp [e, Ne.symm e]
    · show (l.foldl plot (fb.flip i, hit || fb.cell i)).2 = _
      have e : (l.any fun j => (fb.flip i).cell j) = l.any fun j => fb.cell j := by
        rw [Bool.eq_iff_iff, List.any_eq_true, List.any_eq_true]
        refine exists_congr fun j => and_congr_right fun hj => ?_
        have : i ≠ j := fun e => hn.1 (e ▸ hj)
        simp [Framebuffer.cell_flip fb i j hi, this]
      rw [h2, e, List.any_cons, Bool.or_assoc]

/-- R151: drawing inverts exactly the cells a 1 bit falls on, and collides iff one of them was 1. -/
theorem drawSprite_spec (fb : Framebuffer) (x0 y0 : Nat) (rows : List Byte) (h : rows.length ≤ 32) :
    (∀ j, (drawSprite fb x0 y0 rows).1.cell j =
        (fb.cell j ^^ decide (j ∈ spritePixels x0 y0 0 rows))) ∧
      ((drawSprite fb x0 y0 rows).2 = true ↔
        ∃ i ∈ spritePixels x0 y0 0 rows, fb.cell i = true) := by
  obtain ⟨h1, h2⟩ := foldl_plot (spritePixels x0 y0 0 rows) fb false
    (spritePixels_nodup x0 y0 rows 0 h) fun i hi => spritePixels_lt hi
  refine ⟨h1, ?_⟩
  unfold drawSprite
  rw [h2]
  simp [List.any_eq_true]

end Sys2Proof.Machine
end

