-- ==== Sys2Proof/Laws/Memory.lean ====
section
/-! SUPPORT. Memory (20_memory.md R50 to R58): a read after a write, the canonical form and that every
memory operation keeps it, equal memories are equal data, and blocks of bytes. -/

namespace Sys2Proof.Machine

variable (font : Vector Byte 80)

/-! ### Reading after writing -/

theorem Memory.read_of_lt (m : Memory) (a : Nat) (h : ∀ c ∈ m, a < c.1) :
    Memory.read font m a = Memory.unlisted font a := by
  induction m with
  | nil => rfl
  | cons c m ih =>
    have hc : a < c.1 := h c (by simp)
    rw [Memory.read, if_neg (by omega)]
    exact ih fun d hd => h d (by simp [hd])

theorem Memory.read_put (m : Memory) (a : Nat) (v : Byte) (i : Nat) :
    Memory.read font (Memory.put m a v) i = if i = a then v else Memory.read font m i := by
  induction m with
  | nil => by_cases h : i = a <;> simp [Memory.put, Memory.read, h]
  | cons c m ih =>
    obtain ⟨b, w⟩ := c
    by_cases h1 : a < b
    · simp [Memory.put, h1, Memory.read]
    · by_cases h2 : a = b
      · subst h2; by_cases h : i = a <;> simp [Memory.put, Memory.read, h]
      · by_cases h3 : i = b
        · subst h3; simp [Memory.put, h1, h2, Memory.read, Ne.symm h2]
        · simp [Memory.put, h1, h2, h3, Memory.read, ih]

theorem Memory.read_drop (m : Memory) (a i : Nat) (hs : m.Pairwise (fun p q => p.1 < q.1)) :
    Memory.read font (Memory.drop m a) i = if i = a then Memory.unlisted font a else Memory.read font m i := by
  induction m with
  | nil => by_cases h : i = a <;> simp [Memory.drop, Memory.read, h]
  | cons c m ih =>
    obtain ⟨b, w⟩ := c
    rw [List.pairwise_cons] at hs
    by_cases h1 : a = b
    · subst h1
      by_cases h : i = a
      · subst h; simpa [Memory.drop] using Memory.read_of_lt font m i hs.1
      · simp [Memory.drop, Memory.read, h]
    · by_cases h2 : i = b
      · subst h2; simp [Memory.drop, h1, Memory.read, Ne.symm h1]
      · simp [Memory.drop, h1, Memory.read, h2, ih hs.2]

/-- What a read sees after a write, in a memory whose addresses rise. -/
theorem Memory.read_write (m : Memory) (a : Nat) (v : Byte) (i : Nat) (hm : Memory.wf font m)
    (ha : a < Config.memSize) :
    Memory.read font (Memory.write font m a v) i = if i = a then v else Memory.read font m i := by
  unfold Memory.write
  rw [if_pos ha]
  split
  · rename_i h; rw [Memory.read_drop font m a i hm.1, h]
  · exact Memory.read_put font m a v i

/-- Beyond the end nothing is written (R195: "addresses above capacity must never be written"). -/
theorem Memory.write_outside (m : Memory) (a : Nat) (v : Byte) (ha : ¬ a < Config.memSize) :
    Memory.write font m a v = m := by simp [Memory.write, ha]

/-! ### The canonical form is kept -/

theorem Memory.mem_put {m : Memory} {a : Nat} {v : Byte} {c : Host.Cell} (h : c ∈ Memory.put m a v) :
    c = (a, v) ∨ c ∈ m := by
  induction m with
  | nil => simpa [Memory.put] using h
  | cons d m ih =>
    obtain ⟨b, w⟩ := d
    simp only [Memory.put] at h
    split at h
    · simpa using h
    · split at h
      · simp only [List.mem_cons] at h ⊢; tauto
      · simp only [List.mem_cons] at h ⊢
        rcases h with h | h
        · exact .inr (.inl h)
        · rcases ih h with h | h
          · exact .inl h
          · exact .inr (.inr h)

theorem Memory.mem_drop {m : Memory} {a : Nat} {c : Host.Cell} (h : c ∈ Memory.drop m a) : c ∈ m := by
  induction m with
  | nil => simp [Memory.drop] at h
  | cons d m ih =>
    obtain ⟨b, w⟩ := d
    simp only [Memory.drop] at h
    split at h
    · exact List.mem_cons_of_mem _ h
    · simp only [List.mem_cons] at h ⊢
      exact h.imp id ih

theorem Memory.put_sorted {m : Memory} (a : Nat) (v : Byte) (hs : m.Pairwise (fun p q => p.1 < q.1)) :
    (Memory.put m a v).Pairwise (fun p q => p.1 < q.1) := by
  induction m with
  | nil => simp [Memory.put]
  | cons d m ih =>
    obtain ⟨b, w⟩ := d
    rw [List.pairwise_cons] at hs
    simp only [Memory.put]
    split
    · rename_i h
      refine List.pairwise_cons.2 ⟨fun c hc => ?_, List.pairwise_cons.2 hs⟩
      rcases List.mem_cons.1 hc with rfl | hc
      · exact h
      · exact Nat.lt_trans h (hs.1 c hc)
    · split
      · rename_i _ h; subst h; exact List.pairwise_cons.2 hs
      · refine List.pairwise_cons.2 ⟨fun c hc => ?_, ih hs.2⟩
        rcases Memory.mem_put hc with rfl | hc
        · show b < a; omega
        · exact hs.1 c hc

theorem Memory.drop_sorted {m : Memory} (a : Nat) (hs : m.Pairwise (fun p q => p.1 < q.1)) :
    (Memory.drop m a).Pairwise (fun p q => p.1 < q.1) := by
  induction m with
  | nil => simp [Memory.drop]
  | cons d m ih =>
    obtain ⟨b, w⟩ := d
    rw [List.pairwise_cons] at hs
    simp only [Memory.drop]
    split
    · exact hs.2
    · exact List.pairwise_cons.2 ⟨fun c hc => hs.1 c (Memory.mem_drop hc), ih hs.2⟩

/-- Every write keeps the canonical form. -/
theorem Memory.write_wf {m : Memory} (a : Nat) (v : Byte) (hm : Memory.wf font m) :
    Memory.wf font (Memory.write font m a v) := by
  unfold Memory.write
  split
  · rename_i ha
    split
    · exact ⟨Memory.drop_sorted a hm.1, fun c hc => hm.2 c (Memory.mem_drop hc)⟩
    · rename_i hv
      refine ⟨Memory.put_sorted a v hm.1, fun c hc => ?_⟩
      rcases Memory.mem_put hc with rfl | hc
      · exact ⟨ha, hv⟩
      · exact hm.2 c hc
  · exact hm

/-- The empty list is canonical: the memory of `State.reset`. -/
theorem Memory.wf_nil : Memory.wf font [] := ⟨List.Pairwise.nil, fun _ h => nomatch h⟩

/-! ### Bytes of the state -/

theorem readByte_writeByte (s : State) (a i : Nat) (v : Byte) (hm : Memory.wf s.config.font s.mem)
    (ha : a < Config.memSize) :
    readByte (writeByte s a v) i = if i = a then v else readByte s i :=
  Memory.read_write s.config.font s.mem a v i hm ha

theorem writeByte_wf (s : State) (a : Nat) (v : Byte) (hm : Memory.wf s.config.font s.mem) :
    Memory.wf (writeByte s a v).config.font (writeByte s a v).mem :=
  Memory.write_wf s.config.font a v hm

theorem storeBytes_wf (bs : List Byte) : ∀ (s : State) (a : Nat), Memory.wf s.config.font s.mem →
    Memory.wf s.config.font (storeBytes s a bs).mem := by
  induction bs with
  | nil => intro s a h; exact h
  | cons b bs ih =>
    intro s a h
    have := ih (writeByte s a b) (a + 1) (writeByte_wf s a b h)
    simpa [storeBytes] using this

/-- A block store inside memory writes exactly its bytes, in order, and keeps every other byte. -/
theorem readByte_storeBytes (bs : List Byte) : ∀ (s : State) (a i : Nat),
    Memory.wf s.config.font s.mem → a + bs.length ≤ Config.memSize →
    readByte (storeBytes s a bs) i = if a ≤ i then bs.getD (i - a) (readByte s i) else readByte s i := by
  induction bs with
  | nil => intro s a i _ _; simp [storeBytes]
  | cons b bs ih =>
    intro s a i hm ha
    simp only [List.length_cons] at ha
    rw [storeBytes, ih _ _ _ (writeByte_wf s a b hm) (by omega), readByte_writeByte s a i b hm (by omega)]
    by_cases h1 : i = a
    · subst h1
      have : ¬ i + 1 ≤ i := by omega
      simp [List.getD]
    · by_cases h2 : a ≤ i
      · have h3 : a + 1 ≤ i := by omega
        have h4 : i - a = (i - (a + 1)) + 1 := by omega
        simp [h1, h2, h3, h4, List.getD]
      · have h3 : ¬ a + 1 ≤ i := by omega
        simp [h1, h2, h3]

@[simp] theorem readBytes_length (s : State) (a n : Nat) : (readBytes s a n).length = n := by
  simp [readBytes]

@[simp] theorem readBytes_getElem (s : State) (a n k : Nat) (h : k < (readBytes s a n).length) :
    (readBytes s a n)[k] = readByte s (a + k) := by simp [readBytes]

/-- R56, as arithmetic: the block of `n` bytes at I leaves memory. -/
theorem blockOutside_iff (s : State) (n : Nat) :
    blockOutside s n = true ↔ 0 < n ∧ 4096 < s.I.toNat + n := by
  simp only [blockOutside, Bool.and_eq_true, decide_eq_true_eq, Config.memSize]
  omega

end Sys2Proof.Machine
end

