-- ==== Sys2Proof/Laws/PerInstr.lean ====
section
/-! SUPPORT. Family EncodesInItsRow: of every instruction, its row is one of the 34 of the opcode map, and
its word matches that row under the row's mask (30_encoding.md R74, R75). -/

namespace Sys2Proof.Laws

/-- The word of `i` lies in the row of R75 that `i` belongs to. -/
def EncodesInItsRow.Statement (i : Instr) : Prop :=
  i.row ∈ opcodeTable ∧ encode i &&& i.row.mask = i.row.pattern

theorem EncodesInItsRow.cls : EncodesInItsRow.Statement .cls :=
  ⟨by decide, by decide⟩
theorem EncodesInItsRow.ret : EncodesInItsRow.Statement .ret :=
  ⟨by decide, by decide⟩
theorem EncodesInItsRow.jp (a : Addr) : EncodesInItsRow.Statement (.jp a) :=
  ⟨by simp [Instr.row, opcodeTable], (hits_T _ 0x1).2 (by simp [encode])⟩
theorem EncodesInItsRow.call (a : Addr) : EncodesInItsRow.Statement (.call a) :=
  ⟨by simp [Instr.row, opcodeTable], (hits_T _ 0x2).2 (by simp [encode])⟩
theorem EncodesInItsRow.seImm (x : Nibble) (nn : Byte) : EncodesInItsRow.Statement (.seImm x nn) :=
  ⟨by simp [Instr.row, opcodeTable], (hits_T _ 0x3).2 (by simp [encode])⟩
theorem EncodesInItsRow.sneImm (x : Nibble) (nn : Byte) : EncodesInItsRow.Statement (.sneImm x nn) :=
  ⟨by simp [Instr.row, opcodeTable], (hits_T _ 0x4).2 (by simp [encode])⟩
theorem EncodesInItsRow.seReg (x y : Nibble) : EncodesInItsRow.Statement (.seReg x y) :=
  ⟨by simp [Instr.row, opcodeTable], (hits_TN _ 0x5 0x0).2 (by simp [encode])⟩
theorem EncodesInItsRow.ldImm (x : Nibble) (nn : Byte) : EncodesInItsRow.Statement (.ldImm x nn) :=
  ⟨by simp [Instr.row, opcodeTable], (hits_T _ 0x6).2 (by simp [encode])⟩
theorem EncodesInItsRow.addImm (x : Nibble) (nn : Byte) : EncodesInItsRow.Statement (.addImm x nn) :=
  ⟨by simp [Instr.row, opcodeTable], (hits_T _ 0x7).2 (by simp [encode])⟩
theorem EncodesInItsRow.ldReg (x y : Nibble) : EncodesInItsRow.Statement (.ldReg x y) :=
  ⟨by simp [Instr.row, opcodeTable], (hits_TN _ 0x8 0x0).2 (by simp [encode])⟩
theorem EncodesInItsRow.orReg (x y : Nibble) : EncodesInItsRow.Statement (.orReg x y) :=
  ⟨by simp [Instr.row, opcodeTable], (hits_TN _ 0x8 0x1).2 (by simp [encode])⟩
theorem EncodesInItsRow.andReg (x y : Nibble) : EncodesInItsRow.Statement (.andReg x y) :=
  ⟨by simp [Instr.row, opcodeTable], (hits_TN _ 0x8 0x2).2 (by simp [encode])⟩
theorem EncodesInItsRow.xorReg (x y : Nibble) : EncodesInItsRow.Statement (.xorReg x y) :=
  ⟨by simp [Instr.row, opcodeTable], (hits_TN _ 0x8 0x3).2 (by simp [encode])⟩
theorem EncodesInItsRow.addReg (x y : Nibble) : EncodesInItsRow.Statement (.addReg x y) :=
  ⟨by simp [Instr.row, opcodeTable], (hits_TN _ 0x8 0x4).2 (by simp [encode])⟩
theorem EncodesInItsRow.subReg (x y : Nibble) : EncodesInItsRow.Statement (.subReg x y) :=
  ⟨by simp [Instr.row, opcodeTable], (hits_TN _ 0x8 0x5).2 (by simp [encode])⟩
theorem EncodesInItsRow.shr (x y : Nibble) : EncodesInItsRow.Statement (.shr x y) :=
  ⟨by simp [Instr.row, opcodeTable], (hits_TN _ 0x8 0x6).2 (by simp [encode])⟩
theorem EncodesInItsRow.subnReg (x y : Nibble) : EncodesInItsRow.Statement (.subnReg x y) :=
  ⟨by simp [Instr.row, opcodeTable], (hits_TN _ 0x8 0x7).2 (by simp [encode])⟩
theorem EncodesInItsRow.shl (x y : Nibble) : EncodesInItsRow.Statement (.shl x y) :=
  ⟨by simp [Instr.row, opcodeTable], (hits_TN _ 0x8 0xE).2 (by simp [encode])⟩
theorem EncodesInItsRow.sneReg (x y : Nibble) : EncodesInItsRow.Statement (.sneReg x y) :=
  ⟨by simp [Instr.row, opcodeTable], (hits_TN _ 0x9 0x0).2 (by simp [encode])⟩
theorem EncodesInItsRow.ldI (a : Addr) : EncodesInItsRow.Statement (.ldI a) :=
  ⟨by simp [Instr.row, opcodeTable], (hits_T _ 0xA).2 (by simp [encode])⟩
theorem EncodesInItsRow.jpV0 (a : Addr) : EncodesInItsRow.Statement (.jpV0 a) :=
  ⟨by simp [Instr.row, opcodeTable], (hits_T _ 0xB).2 (by simp [encode])⟩
theorem EncodesInItsRow.rnd (x : Nibble) (nn : Byte) : EncodesInItsRow.Statement (.rnd x nn) :=
  ⟨by simp [Instr.row, opcodeTable], (hits_T _ 0xC).2 (by simp [encode])⟩
theorem EncodesInItsRow.drw (x y n : Nibble) : EncodesInItsRow.Statement (.drw x y n) :=
  ⟨by simp [Instr.row, opcodeTable], (hits_T _ 0xD).2 (by simp [encode])⟩
theorem EncodesInItsRow.skp (x : Nibble) : EncodesInItsRow.Statement (.skp x) :=
  ⟨by simp [Instr.row, opcodeTable], (hits_TNN _ 0xE 0x9 0xE).2
    (by rw [← opNN_eq _ 0x9 0xE 0x9E (by decide)]; simp [encode])⟩
theorem EncodesInItsRow.sknp (x : Nibble) : EncodesInItsRow.Statement (.sknp x) :=
  ⟨by simp [Instr.row, opcodeTable], (hits_TNN _ 0xE 0xA 0x1).2
    (by rw [← opNN_eq _ 0xA 0x1 0xA1 (by decide)]; simp [encode])⟩
theorem EncodesInItsRow.ldVxDt (x : Nibble) : EncodesInItsRow.Statement (.ldVxDt x) :=
  ⟨by simp [Instr.row, opcodeTable], (hits_TNN _ 0xF 0x0 0x7).2
    (by rw [← opNN_eq _ 0x0 0x7 0x07 (by decide)]; simp [encode])⟩
theorem EncodesInItsRow.ldVxK (x : Nibble) : EncodesInItsRow.Statement (.ldVxK x) :=
  ⟨by simp [Instr.row, opcodeTable], (hits_TNN _ 0xF 0x0 0xA).2
    (by rw [← opNN_eq _ 0x0 0xA 0x0A (by decide)]; simp [encode])⟩
theorem EncodesInItsRow.ldDtVx (x : Nibble) : EncodesInItsRow.Statement (.ldDtVx x) :=
  ⟨by simp [Instr.row, opcodeTable], (hits_TNN _ 0xF 0x1 0x5).2
    (by rw [← opNN_eq _ 0x1 0x5 0x15 (by decide)]; simp [encode])⟩
theorem EncodesInItsRow.ldStVx (x : Nibble) : EncodesInItsRow.Statement (.ldStVx x) :=
  ⟨by simp [Instr.row, opcodeTable], (hits_TNN _ 0xF 0x1 0x8).2
    (by rw [← opNN_eq _ 0x1 0x8 0x18 (by decide)]; simp [encode])⟩
theorem EncodesInItsRow.addI (x : Nibble) : EncodesInItsRow.Statement (.addI x) :=
  ⟨by simp [Instr.row, opcodeTable], (hits_TNN _ 0xF 0x1 0xE).2
    (by rw [← opNN_eq _ 0x1 0xE 0x1E (by decide)]; simp [encode])⟩
theorem EncodesInItsRow.ldF (x : Nibble) : EncodesInItsRow.Statement (.ldF x) :=
  ⟨by simp [Instr.row, opcodeTable], (hits_TNN _ 0xF 0x2 0x9).2
    (by rw [← opNN_eq _ 0x2 0x9 0x29 (by decide)]; simp [encode])⟩
theorem EncodesInItsRow.ldB (x : Nibble) : EncodesInItsRow.Statement (.ldB x) :=
  ⟨by simp [Instr.row, opcodeTable], (hits_TNN _ 0xF 0x3 0x3).2
    (by rw [← opNN_eq _ 0x3 0x3 0x33 (by decide)]; simp [encode])⟩
theorem EncodesInItsRow.storeRegs (x : Nibble) : EncodesInItsRow.Statement (.storeRegs x) :=
  ⟨by simp [Instr.row, opcodeTable], (hits_TNN _ 0xF 0x5 0x5).2
    (by rw [← opNN_eq _ 0x5 0x5 0x55 (by decide)]; simp [encode])⟩
theorem EncodesInItsRow.loadRegs (x : Nibble) : EncodesInItsRow.Statement (.loadRegs x) :=
  ⟨by simp [Instr.row, opcodeTable], (hits_TNN _ 0xF 0x6 0x5).2
    (by rw [← opNN_eq _ 0x6 0x5 0x65 (by decide)]; simp [encode])⟩

end Sys2Proof.Laws
end

