-- ==== Sys2Proof/Laws/Registers.lean ====
section
/-! SUPPORT. The register file (10_state.md R20, R21): what a read sees after a write, after a flag write,
and after a block load; and the call stack (R26, R27): what a push and a pop do. -/

namespace Sys2Proof.Machine

/-! ### General registers -/

theorem readV_writeV (s : State) (x y : Nibble) (b : Byte) :
    readV (writeV s x b) y = if y = x then b else readV s y := by
  unfold readV writeV
  by_cases h : y = x
  · subst h; simp
  · have : x.toNat ≠ y.toNat := fun e => h (BitVec.eq_of_toNat_eq e.symm)
    simp [this, h]

@[simp] theorem readV_writeV_same (s : State) (x : Nibble) (b : Byte) :
    readV (writeV s x b) x = b := by simp [readV_writeV]

theorem readV_writeV_other (s : State) {x y : Nibble} (b : Byte) (h : y ≠ x) :
    readV (writeV s x b) y = readV s y := by simp [readV_writeV, h]

theorem readV_setFlag (s : State) (c : Bool) (y : Nibble) :
    readV (setFlag s c) y = if y = vf then flagByte c else readV s y := readV_writeV s vf y _

/-- R21: the flag wins in VF; VX has the result when it is another register; the rest is unchanged. -/
theorem readV_writeResultThenFlag (s : State) (x : Nibble) (r : Byte) (c : Bool) (y : Nibble) :
    readV (writeResultThenFlag s x r c) y =
      if y = vf then flagByte c else if y = x then r else readV s y := by
  simp [writeResultThenFlag, readV_setFlag, readV_writeV]

theorem flagByte_toNat (c : Bool) : (flagByte c).toNat = if c then 1 else 0 := by cases c <;> rfl

/-- 8XY6 (R128): the bit shifted out at the right is the value modulo 2. -/
theorem lowBitOut_toNat (t : Byte) : (flagByte (lowBitOut t)).toNat = t.toNat % 2 := by
  have h : t.getLsbD 0 = decide (t.toNat % 2 = 1) := by
    simp [BitVec.getLsbD, Nat.testBit_zero]
  rw [flagByte_toNat, lowBitOut, h]
  split <;> simp_all

/-- 8XYE (R130): the bit shifted out at the left is the value div 128. -/
theorem highBitOut_toNat (t : Byte) : (flagByte (highBitOut t)).toNat = t.toNat / 128 := by
  have h : t.getLsbD 7 = decide (t.toNat / 128 % 2 = 1) := by
    simp only [BitVec.getLsbD, Nat.testBit, Nat.shiftRight_eq_div_pow, Nat.one_and_eq_mod_two]
    rcases Nat.mod_two_eq_zero_or_one (t.toNat / 128) with e | e <;> simp [e]
  have := t.isLt
  rw [flagByte_toNat, highBitOut, h]
  split <;> simp_all <;> omega

/-- FX65: a block load writes exactly the registers `k, k+1, ...` it has bytes for. -/
theorem readV_writeRegs (y : Nibble) (bs : List Byte) : ∀ (s : State) (k : Nat), k + bs.length ≤ 16 →
    readV (writeRegs s k bs) y =
      if k ≤ y.toNat then bs.getD (y.toNat - k) (readV s y) else readV s y := by
  induction bs with
  | nil => intro s k _; simp [writeRegs]
  | cons b bs ih =>
    intro s k hk
    simp only [List.length_cons] at hk
    rw [writeRegs, ih _ _ (by omega), readV_writeV]
    have hkn : (BitVec.ofNat 4 k).toNat = k := by simp; omega
    have e : (y = BitVec.ofNat 4 k) ↔ y.toNat = k :=
      ⟨fun h => by rw [h, hkn], fun h => BitVec.eq_of_toNat_eq (by rw [hkn, h])⟩
    by_cases h1 : y.toNat = k
    · have : ¬ k + 1 ≤ y.toNat := by omega
      simp [e, h1, List.getD]
    · by_cases h2 : k ≤ y.toNat
      · have h3 : k + 1 ≤ y.toNat := by omega
        have h4 : y.toNat - k = (y.toNat - (k + 1)) + 1 := by omega
        simp [e, h1, h2, h3, h4, List.getD]
      · have h3 : ¬ k + 1 ≤ y.toNat := by omega
        simp [e, h1, h2, h3]

theorem regsUpTo_length (s : State) (x : Nibble) : (regsUpTo s x).length = x.toNat + 1 := by
  simp [regsUpTo]

theorem regsUpTo_getElem (s : State) (x y : Nibble) (h : y.toNat ≤ x.toNat) :
    (regsUpTo s x)[y.toNat]'(by rw [regsUpTo_length]; omega) = readV s y := by
  simp [regsUpTo]

/-! ### Input latch (R33, R165) -/

theorem mem_keyCodes : ∀ k : Fin 16, k ∈ keyCodes := by decide

/-- In a rising list, the first element with a property is the least one with it. -/
theorem find?_rising (p : Fin 16 → Bool) (k : Fin 16) : ∀ l : List (Fin 16), l.Pairwise (· < ·) →
    k ∈ l → p k = true → (∀ j, j < k → p j = false) → l.find? p = some k := by
  intro l
  induction l with
  | nil => intro _ h; cases h
  | cons a l ih =>
    intro hs hk hp hl
    rw [List.pairwise_cons] at hs
    rcases List.mem_cons.1 hk with rfl | hk
    · simp [hp]
    · rw [List.find?_cons, hl a (hs.1 k hk)]
      exact ih hs.2 hk hp hl

/-- R165: the scan in ascending order finds the least pressed key. -/
theorem firstKey_some (s : State) (k : Fin 16) (hk : keyDown s k = true)
    (hl : ∀ j, j < k → keyDown s j = false) : firstKey s = some k :=
  find?_rising _ k _ (by decide) (mem_keyCodes k) hk hl

theorem firstKey_none (s : State) : firstKey s = none ↔ ∀ k, keyDown s k = false := by
  simp only [firstKey, List.find?_eq_none, Bool.not_eq_true]
  exact ⟨fun h k => h k (mem_keyCodes k), fun h k _ => h k⟩

/-! ### Call stack -/

/-- R102: with room left, a push writes the entry at SP, adds 1 to SP, and keeps every other entry. -/
theorem push_spec (s : State) (w : Word) (h : s.sp.val < 16) :
    (push s w).sp.val = s.sp.val + 1 ∧
      ∀ k : Fin 16, stackEntry (push s w) k = if k.val = s.sp.val then w else stackEntry s k := by
  unfold push
  rw [dif_pos h]
  refine ⟨rfl, fun k => ?_⟩
  by_cases e : k.val = s.sp.val
  · simp [stackEntry, e]
  · have : s.sp.val ≠ k.val := fun h => e h.symm
    simp [stackEntry, e, this]

/-- R100: of a stack that is not empty, a pop takes 1 from SP and puts the entry there into PC. -/
theorem popPc_spec (s : State) (k : Fin 16) (h : s.sp.val = k.val + 1) :
    (popPc s).sp.val = k.val ∧ (popPc s).pc = stackEntry s k := by
  unfold popPc
  rw [dif_pos (by omega)]
  refine ⟨by simp [h], ?_⟩
  simp [stackEntry, h]

end Sys2Proof.Machine
end

