-- ==== Sys2Proof/Tests/Slice0.lean ====
section
/-! SUPPORT. Tests of the model on the vectors of spec/95_test_vectors.md (its numbers stand in the
comments; the words and the results are that file's, worked out there by hand from the rules), the smoke
test of the well-formedness checks, and a witness for the hypotheses of every statement that has some. -/

namespace Sys2Proof.Tests

open Sys2Proof Sys2Proof.Machine

/-! ### Small states -/

/-- Some registers set. -/
def withV (rs : List (Nibble × Byte)) (s : State) : State := rs.foldl (fun t r => writeV t r.1 r.2) s

/-- `op` stands at PC. -/
def withWord (op : Word) (s : State) : State := storeBytes s s.pc.toNat (wordBytes op)

/-- The start state with registers `rs`. -/
def start (rs : List (Nibble × Byte)) : State := withV rs State.reset

/-- The start state with registers `rs` and I = `i`. -/
def startI (i : Word) (rs : List (Nibble × Byte)) : State := { start rs with I := i }

/-- The shift quirk on. -/
def quirk (s : State) : State := { s with config := { s.config with shiftQuirk := true } }

/-- One step on the word `op` at PC ends in a next state with `p`. -/
def after (op : Word) (s : State) (p : State → Bool) : Bool :=
  match step (withWord op s) with
  | .next t => p t
  | .fault _ => false
  | .refused _ => false

/-- The fault taken: the record of R36, and PC. -/
def faulted (c : FaultCause) (info ipc pc : Word) (t : State) : Bool :=
  t.status == .faulted && t.faultCause == c && t.faultInfo == info && t.faultIpc == ipc && t.pc == pc

/-- The sprite bytes of 95_test_vectors.md 2.5. -/
def sprites (s : State) : State := storeBytes s 0x300 [0xF0, 0x3C, 0x80]

/-- A FAULTED state. -/
def stopped : State := { State.reset with status := .faulted, faultCause := .stackUnderflow, dt := 5 }

/-! ### Well-formedness smoke -/

theorem replicate_wellFormed (n : Nat) (b : Byte) :
    Program.wellFormed (List.replicate n b) = decide (n ≤ 3584) := by
  unfold Program.wellFormed
  rw [List.length_replicate]
  rfl
theorem test_program_too_long_refused : Program.wellFormed (List.replicate 3585 0) = false :=
  replicate_wellFormed 3585 0
theorem test_program_of_full_size_accepted : Program.wellFormed (List.replicate 3584 0) = true :=
  replicate_wellFormed 3584 0
theorem test_memory_unsorted_refused : ¬ Memory.wf Config.defaultFont [(0x301, 1), (0x300, 1)] := by decide
theorem test_memory_repeated_refused : ¬ Memory.wf Config.defaultFont [(0x300, 1), (0x300, 2)] := by decide
theorem test_memory_default_entry_refused : ¬ Memory.wf Config.defaultFont [(0x000, 0xF0)] := by decide
theorem test_memory_zero_entry_refused : ¬ Memory.wf Config.defaultFont [(0x300, 0)] := by decide
theorem test_memory_beyond_capacity_refused : ¬ Memory.wf Config.defaultFont [(0x1000, 1)] := by decide
theorem test_memory_write_of_default_removes :
    Memory.write Config.defaultFont [(0x300, 1)] 0x300 0 = [] := by decide

/-! ### Decoding: one word for each constructor, written out from R75 -/

theorem test_decode_families_0_to_4 :
    decode 0b0000000011100000 = some .cls ∧ decode 0b0000000011101110 = some .ret ∧
    decode 0b0001001000110100 = some (.jp 0x234) ∧ decode 0b0010101010111100 = some (.call 0xABC) ∧
    decode 0b0011001100101010 = some (.seImm 3 0x2A) ∧ decode 0b0100001100101010 = some (.sneImm 3 0x2A) := by
  decide
theorem test_decode_families_5_to_7_and_9 :
    decode 0b0101000100100000 = some (.seReg 1 2) ∧ decode 0b0110101001111111 = some (.ldImm 0xA 0x7F) ∧
    decode 0b0111000111111111 = some (.addImm 1 0xFF) ∧ decode 0b1001000100100000 = some (.sneReg 1 2) := by
  decide
theorem test_decode_family_8 :
    decode 0b1000000100100000 = some (.ldReg 1 2) ∧ decode 0b1000000100100001 = some (.orReg 1 2) ∧
    decode 0b1000000100100010 = some (.andReg 1 2) ∧ decode 0b1000000100100011 = some (.xorReg 1 2) ∧
    decode 0b1000000100100100 = some (.addReg 1 2) ∧ decode 0b1000000100100101 = some (.subReg 1 2) ∧
    decode 0b1000000100100110 = some (.shr 1 2) ∧ decode 0b1000000100100111 = some (.subnReg 1 2) ∧
    decode 0b1000000100101110 = some (.shl 1 2) := by decide
theorem test_decode_families_A_to_E :
    decode 0b1010001011110000 = some (.ldI 0x2F0) ∧ decode 0b1011001011111111 = some (.jpV0 0x2FF) ∧
    decode 0b1100001100001111 = some (.rnd 3 0x0F) ∧ decode 0b1101010110100011 = some (.drw 5 0xA 3) ∧
    decode 0b1110000110011110 = some (.skp 1) ∧ decode 0b1110000110100001 = some (.sknp 1) := by decide
theorem test_decode_family_F :
    decode 0b1111001100000111 = some (.ldVxDt 3) ∧ decode 0b1111010100001010 = some (.ldVxK 5) ∧
    decode 0b1111001000010101 = some (.ldDtVx 2) ∧ decode 0b1111001000011000 = some (.ldStVx 2) ∧
    decode 0b1111001000011110 = some (.addI 2) ∧ decode 0b1111010000101001 = some (.ldF 4) ∧
    decode 0b1111010100110011 = some (.ldB 5) ∧ decode 0b1111001001010101 = some (.storeRegs 2) ∧
    decode 0b1111001001100101 = some (.loadRegs 2) := by decide
/-- 2.1: the unrecognised words. -/
theorem test_decode_unrecognised :
    [0x0000, 0x00E1, 0x01E0, 0x0FFF, 0x5121, 0x9ABF, 0x8008, 0x800F, 0x812D, 0xE000, 0xE19F, 0xF000, 0xF1FF,
      0xF175, 0xF185, 0xF130].map decode = List.replicate 16 none := by decide
theorem test_encode_words :
    encode (.call 0xABC) = 0x2ABC ∧ encode (.drw 5 0xA 3) = 0xD5A3 ∧ encode (.shl 15 15) = 0x8FFE ∧
    encode (.sknp 15) = 0xEFA1 ∧ encode (.loadRegs 15) = 0xFF65 ∧ encode .cls = 0x00E0 := by decide
theorem test_decodeBytes_high_byte_first :
    decodeBytes [0x60, 0x0A, 0x61] = .instr (.ldImm 0 0x0A) [0x61] ∧
    decodeBytes [0x01, 0xE0] = .unrecognised 0x01E0 [] ∧ decodeBytes [0x60] = .truncated := by decide
theorem test_decodeTableWord : decodeTableWord 16 0x600A = some (.ldImm 0 0x0A) := by decide

/-! ### Control transfer (2.2) -/

/-- T3 -/
theorem test_jp_odd_target : after 0x1201 (start []) (fun t => t.pc == 0x201) = true := by decide
/-- T5 -/
theorem test_call_at_depth_15 :
    after 0x2300 { State.reset with sp := 15, pc := 0x450 }
      (fun t => stackEntry t 15 == 0x452 && t.sp == 16 && t.pc == 0x300) = true := by decide
/-- T6 -/
theorem test_call_overflow :
    after 0x2300 { State.reset with sp := 16, pc := 0x450 }
      (fun t => faulted .stackOverflow 0x10 0x450 0x452 t && t.sp == 16) = true := by decide
/-- T7 -/
theorem test_ret :
    after 0x00EE { State.reset with sp := 1, stack := State.reset.stack.set 0 0x202, pc := 0x300 }
      (fun t => t.sp == 0 && t.pc == 0x202 && stackEntry t 0 == 0x202) = true := by decide
/-- T8 -/
theorem test_ret_underflow :
    after 0x00EE (start []) (faulted .stackUnderflow 0 0x200 0x202) = true := by decide
/-- T9, T10 -/
theorem test_seImm :
    after 0x332A (start [(3, 0x2A)]) (fun t => t.pc == 0x204) = true ∧
    after 0x332A (start [(3, 0x2B)]) (fun t => t.pc == 0x202) = true := by decide
/-- T11, T12 -/
theorem test_sneImm :
    after 0x432A (start [(3, 0x2A)]) (fun t => t.pc == 0x202) = true ∧
    after 0x432A (start [(3, 0x2B)]) (fun t => t.pc == 0x204) = true := by decide
/-- T13, T14 -/
theorem test_seReg :
    after 0x5120 (start [(1, 7), (2, 7)]) (fun t => t.pc == 0x204) = true ∧
    after 0x5120 (start [(1, 7), (2, 8)]) (fun t => t.pc == 0x202) = true := by decide
/-- T16, T17 -/
theorem test_sneReg :
    after 0x9120 (start [(1, 7), (2, 8)]) (fun t => t.pc == 0x204) = true ∧
    after 0x9120 (start [(1, 7), (2, 7)]) (fun t => t.pc == 0x202) = true := by decide
/-- T20 -/
theorem test_jpV0_unmasked : after 0xBFFF (start [(0, 0xFF)]) (fun t => t.pc == 0x10FE) = true := by decide
/-- T21 -/
theorem test_jpV0_not_vx : after 0xB2FF (start [(0, 1), (2, 0x77)]) (fun t => t.pc == 0x300) = true := by decide
/-- T22: the skip leaves memory without a fault, the next step takes FETCH_OOB. -/
theorem test_skip_out_of_memory :
    after 0x3F00 { State.reset with pc := 0xFFC } (fun t => t.pc == 0x1000 && t.status == .running &&
      match step t with
      | .next u => faulted .fetchOob 0x1000 0x1000 0x1000 u
      | .fault _ => false
      | .refused _ => false) = true := by decide

/-! ### Load, arithmetic, logic, shift, random (2.3) -/

/-- A2 -/
theorem test_ldImm_vf : after 0x6F55 (start []) (fun t => readV t 15 == 0x55) = true := by decide
/-- A3, A4 -/
theorem test_addImm :
    after 0x7102 (start [(1, 0xFF), (15, 7)]) (fun t => readV t 1 == 1 && readV t 15 == 7) = true ∧
    after 0x7F03 (start [(15, 0xFE)]) (fun t => readV t 15 == 1) = true := by decide
/-- A6 -/
theorem test_ldReg : after 0x8120 (start [(2, 0x33)]) (fun t => readV t 1 == 0x33) = true := by decide
/-- A7 -/
theorem test_orReg : after 0x8121 (start [(1, 0xF0), (2, 0x0F), (15, 7)])
    (fun t => readV t 1 == 0xFF && readV t 15 == 7) = true := by decide
/-- A8 -/
theorem test_andReg : after 0x8122 (start [(1, 0xF3), (2, 0x3F), (15, 7)])
    (fun t => readV t 1 == 0x33 && readV t 15 == 7) = true := by decide
/-- A9 -/
theorem test_xorReg : after 0x8123 (start [(1, 0xFF), (2, 0x0F), (15, 7)])
    (fun t => readV t 1 == 0xF0 && readV t 15 == 7) = true := by decide
/-- A11, A12 -/
theorem test_addReg :
    after 0x8124 (start [(1, 0xFF), (2, 1)]) (fun t => readV t 1 == 0 && readV t 15 == 1) = true ∧
    after 0x8124 (start [(1, 1), (2, 1), (15, 1)]) (fun t => readV t 1 == 2 && readV t 15 == 0) = true := by
  decide
/-- A15 -/
theorem test_addReg_into_vf :
    after 0x8F14 (start [(15, 0xF0), (1, 0x20)]) (fun t => readV t 15 == 1) = true := by decide
/-- A19, A21 -/
theorem test_subReg :
    after 0x8125 (start [(1, 1), (2, 2), (15, 1)]) (fun t => readV t 1 == 0xFF && readV t 15 == 0) = true ∧
    after 0x8125 (start [(1, 7), (2, 7)]) (fun t => readV t 1 == 0 && readV t 15 == 1) = true := by decide
/-- A27 -/
theorem test_subReg_of_vf :
    after 0x81F5 (start [(1, 0), (15, 1)]) (fun t => readV t 1 == 0xFF && readV t 15 == 0) = true := by decide
/-- A33, A36 -/
theorem test_shr_of_vy :
    after 0x8126 (start [(1, 0), (2, 5)])
      (fun t => readV t 1 == 2 && readV t 2 == 5 && readV t 15 == 1) = true ∧
    after 0x8126 (start [(1, 0xAA), (2, 1)]) (fun t => readV t 1 == 0 && readV t 15 == 1) = true := by decide
/-- A34 -/
theorem test_shr_of_vx : after 0x8126 (quirk (start [(1, 4), (2, 0xFF)]))
    (fun t => readV t 1 == 2 && readV t 2 == 0xFF && readV t 15 == 0) = true := by decide
/-- A29, A30 -/
theorem test_subnReg :
    after 0x8127 (start [(1, 2), (2, 5)]) (fun t => readV t 1 == 3 && readV t 15 == 1) = true ∧
    after 0x8127 (start [(1, 5), (2, 2), (15, 1)]) (fun t => readV t 1 == 0xFD && readV t 15 == 0) = true := by
  decide
/-- A43 -/
theorem test_shl_of_vy : after 0x812E (start [(1, 0x81), (2, 0x40), (15, 1)])
    (fun t => readV t 1 == 0x80 && readV t 2 == 0x40 && readV t 15 == 0) = true := by decide
/-- A42 -/
theorem test_shl_of_vx : after 0x812E (quirk (start [(1, 0x81), (2, 0)]))
    (fun t => readV t 1 == 2 && readV t 15 == 1) = true := by decide
/-- A51: the one value of CXNN that does not depend on the draw. -/
theorem test_rnd_masked_to_zero : readV (writeV (start [(3, 9)]) 3 (Config.freeByte 0 &&& 0)) 3 = 0 ∧
    exec (.rnd 3 0) (start [(3, 9)]) =
      .next (countDraw (writeV (start [(3, 9)]) 3 (Config.freeByte 0 &&& 0))) :=
  ⟨BitVec.and_zero, rfl⟩

/-! ### Index register, loads and stores (2.4) -/

/-- M2 -/
theorem test_ldI : after 0xAFFF (start []) (fun t => t.I == 0xFFF) = true := by decide
/-- M4, M5 -/
theorem test_addI :
    after 0xF21E (startI 0xFFF [(2, 1), (15, 7)]) (fun t => t.I == 0x1000 && readV t 15 == 7) = true ∧
    after 0xF21E (startI 0xFFFF [(2, 1)]) (fun t => t.I == 0) = true := by decide
/-- M9, M11 -/
theorem test_ldF :
    after 0xF429 (start [(4, 0x0F)]) (fun t => t.I == 0x4B) = true ∧
    after 0xF429 (start [(4, 0xFF)]) (fun t => t.I == 0x4FB) = true := by decide
/-- M12 -/
theorem test_ldB : after 0xF533 (startI 0x300 [(5, 0xEA)])
    (fun t => readBytes t 0x300 3 == [2, 3, 4] && t.I == 0x300) = true := by decide
/-- M19 -/
theorem test_ldB_fault : after 0xF533 (startI 0xFFE [(5, 0x63)])
    (fun t => faulted .memWriteOob 0xFFE 0x200 0x202 t && readBytes t 0xFFE 2 == [0, 0]) = true := by decide
/-- M20 -/
theorem test_storeRegs : after 0xF255 (startI 0x400 [(0, 0x11), (1, 0x22), (2, 0x33), (3, 0x44)])
    (fun t => readBytes t 0x400 4 == [0x11, 0x22, 0x33, 0] && t.I == 0x403) = true := by decide
/-- M23 -/
theorem test_storeRegs_fault : after 0xFF55 (startI 0xFF1 [(0, 0x11)])
    (fun t => faulted .memWriteOob 0xFF1 0x200 0x202 t && t.I == 0xFF1 && readByte t 0xFF1 == 0) = true := by
  decide
/-- M25 -/
theorem test_loadRegs : after 0xF265 (storeBytes (startI 0x400 [(3, 0x77)]) 0x400 [0x11, 0x22, 0x33])
    (fun t => readV t 0 == 0x11 && readV t 1 == 0x22 && readV t 2 == 0x33 && readV t 3 == 0x77 &&
      t.I == 0x403) = true := by decide
/-- M28 -/
theorem test_loadRegs_fault : after 0xF165 (startI 0xFFF [(0, 5)])
    (fun t => faulted .memReadOob 0xFFF 0x200 0x202 t && readV t 0 == 5 && t.I == 0xFFF) = true := by decide

/-! ### Framebuffer (2.5) -/

/-- F1 -/
theorem test_cls : after 0x00E0 { State.reset with fb := (State.reset.fb.set 0 1).set 31 (1 <<< 63) }
    (fun t => t.fb == State.reset.fb && t.redraw) = true := by decide
/-- F3 (bit 7 is the leftmost) and F12 (the row does not change when a column wraps). -/
theorem test_drw_places_the_row :
    after 0xD011 (sprites (startI 0x300 [(15, 1)]))
      (fun t => (List.range 6).map (readCell t) == [true, true, true, true, false, false] &&
        readV t 15 == 0 && t.redraw) = true ∧
    after 0xD011 (sprites (startI 0x300 [(0, 62)]))
      (fun t => [62, 63, 0, 1, 2, 64].map (readCell t) == [true, true, true, true, false, false]) = true := by
  decide
/-- F4 (3C over F0 collides), F6 (both coordinates wrap), F8 (the column is the old VF), F11 (the fault). -/
theorem test_drw_flag_wrap_and_fault :
    after 0xD011 (sprites { startI 0x301 [] with fb := State.reset.fb.set 0 0xF })
      (fun t => t.fb == State.reset.fb.set 0 0x33 && readV t 15 == 1) = true ∧
    after 0xD011 (sprites (startI 0x302 [(0, 0xFF), (1, 0xFF)])) (fun t => readCell t 2047) = true ∧
    after 0xDF11 (sprites (startI 0x302 [(15, 5)])) (fun t => readCell t 5 && readV t 15 == 0) = true ∧
    after 0xD012 (startI 0xFFF [(15, 1)])
      (fun t => faulted .memReadOob 0xFFF 0x200 0x202 t && readV t 15 == 1 && !t.redraw) = true := by decide

/-! ### Keys and timers (2.6) -/

/-- K1, K2 -/
theorem test_skp :
    after 0xE19E (setKey 5 true (start [(1, 5)])) (fun t => t.pc == 0x204) = true ∧
    after 0xE19E (setKey 4 true (start [(1, 5)])) (fun t => t.pc == 0x202) = true := by decide
/-- K5 -/
theorem test_skp_fault : after 0xE19E (start [(1, 0x10)]) (faulted .keyIndex 0x10 0x200 0x202) = true := by
  decide
/-- K3, K4 -/
theorem test_sknp :
    after 0xE1A1 (start [(1, 5)]) (fun t => t.pc == 0x204) = true ∧
    after 0xE1A1 (setKey 5 true (start [(1, 5)])) (fun t => t.pc == 0x202) = true := by decide
/-- K6 -/
theorem test_sknp_fault : after 0xE1A1 (start [(1, 0xFF)]) (faulted .keyIndex 0xFF 0x200 0x202) = true := by
  decide
/-- K7 -/
theorem test_ldVxDt : after 0xF307 { State.reset with dt := 0x3C }
    (fun t => readV t 3 == 0x3C && t.dt == 0x3C) = true := by decide
/-- K8 -/
theorem test_ldDtVx : after 0xF215 (start [(2, 5)]) (fun t => t.dt == 5 && t.st == 0) = true := by decide
/-- K9, K10 -/
theorem test_ldStVx :
    after 0xF218 (start [(2, 0x1E)]) (fun t => t.st == 0x1E && t.dt == 0 && tone t) = true ∧
    after 0xF218 { State.reset with st := 9 } (fun t => t.st == 0 && !tone t) = true := by decide
/-- K11 -/
theorem test_ldVxK_lowest : after 0xF50A (setKey 9 true (setKey 3 true { start [(5, 0x77)] with pc := 0x210 }))
    (fun t => readV t 5 == 3 && t.pc == 0x212) = true := by decide
/-- K12 -/
theorem test_ldVxK_waits : after 0xF50A { start [(5, 0x77)] with pc := 0x210 }
    (fun t => readV t 5 == 0x77 && t.pc == 0x210) = true := by decide

/-! ### Other events and the unrecognised word -/

/-- K15, K17 -/
theorem test_tick :
    (let t := tick { State.reset with st := 1 }
     t.dt == 0 && t.st == 0) = true ∧ (tick stopped).dt = 5 := by decide
/-- K18 -/
theorem test_step_when_faulted : step stopped = .next stopped ∧ stepReport stopped = some .stopped :=
  ⟨rfl, rfl⟩
/-- Z4 -/
theorem test_unrecognised_warns :
    stepReport (load [] State.reset) = some (.warn 0 0x200) ∧
    after 0x0000 State.reset (fun t => t == { State.reset with pc := 0x202 }) = true := by decide
/-- P6: 120 instructions a second are 2 steps a tick. -/
theorem test_frame : frameEvents State.reset = [.step, .step, .tick] := by decide

/-! ### Witnesses: the hypotheses of each statement can be met, at the boundary values of each clause -/

/-- The word `op` at PC = 0xFFE, the last place a fetch may start. -/
def lastWord (op : Word) : State := withWord op { State.reset with pc := 0xFFE }

/-- Every mask and pattern named in a statement selects at least its pattern. -/
theorem witness_DecodesAs : ∀ r ∈ opcodeTable, r.pattern &&& r.mask = r.pattern := by decide

theorem witness_EncodeOfDecodeIsTheWord : ∃ (op : Word) (i : Instr), decode op = some i :=
  ⟨0xD5A3, .drw 5 10 3, by decide⟩

theorem witness_RecognisedExactlyWhenOneRowMatches :
    ∃ (op : Word) (i : Instr), (∃ r ∈ opcodeTable, op &&& r.mask = r.pattern) ∧ decode op = some i :=
  ⟨0x8FFE, .shl 15 15, ⟨⟨0xF00F, 0x800E⟩, by decide⟩, by decide⟩

theorem witness_StepRunsTheDecodedInstruction : ∃ (s : State) (i : Instr), s.status = .running ∧
    s.pc.toNat = 0xFFE ∧ decode (readByte s s.pc.toNat ++ readByte s (s.pc.toNat + 1)) = some i :=
  ⟨lastWord 0x1234, .jp 0x234, by decide⟩

theorem witness_UnrecognisedWordIsANoOp : ∃ s : State, s.status = .running ∧
    s.pc.toNat = 0xFFE ∧ decode (readByte s s.pc.toNat ++ readByte s (s.pc.toNat + 1)) = none :=
  ⟨lastWord 0xF175, by decide⟩

theorem witness_FetchBeyondMemoryFaults : ∃ s : State, s.status = .running ∧ s.pc.toNat = 0xFFF :=
  ⟨{ State.reset with pc := 0xFFF }, by decide⟩

theorem witness_FaultedMachineStaysFaultedUntilReset :
    ∃ (s : State) (es : List Event), s.status = .faulted ∧ Event.reset ∉ es ∧ es.length = 4 :=
  ⟨stopped, [.step, .tick, .setKey 3 true, .ackRedraw], by decide⟩

theorem witness_ReturnPopsThePc_lowest : ∃ s : State, s.sp.val = (0 : Fin 16).val + 1 :=
  ⟨{ State.reset with sp := 1 }, by decide⟩
theorem witness_ReturnPopsThePc_highest : ∃ s : State, s.sp.val = (15 : Fin 16).val + 1 :=
  ⟨{ State.reset with sp := 16 }, by decide⟩
theorem witness_ReturnPopsThePc_empty : ∃ s : State, s.sp.val = 0 := ⟨State.reset, by decide⟩

theorem witness_CallPushesThePc_lowest : ∃ s : State, s.sp.val = (0 : Fin 16).val := ⟨State.reset, by decide⟩
theorem witness_CallPushesThePc_highest : ∃ s : State, s.sp.val = (15 : Fin 16).val :=
  ⟨{ State.reset with sp := 15 }, by decide⟩
theorem witness_CallPushesThePc_full : ∃ s : State, s.sp.val = 16 :=
  ⟨{ State.reset with sp := 16 }, by decide⟩

theorem witness_CallThenReturnComesBack : ∃ s t u : State, s.sp.val = 15 ∧
    exec (.call 0x300) s = .next t ∧ u.sp = t.sp ∧ ∀ k, stackEntry u k = stackEntry t k :=
  ⟨{ State.reset with sp := 15 }, _, _, by decide, rfl, rfl, fun _ => rfl⟩

theorem witness_SkipOnRegisters : (opT 0x5121 = 5#4 ∧ opN 0x5121 ≠ 0#4) ∧ (opT 0x9ABF = 9#4 ∧ opN 0x9ABF ≠ 0#4) := by
  decide

/-- For O21 to O24: a destination that is not VF. -/
theorem witness_destination_not_vf : ∃ x : Nibble, x ≠ vf := ⟨14, by decide⟩

theorem witness_RandomByteIsMasked : ∃ (nn : Byte) (k : Nat), nn.getLsbD k = false := ⟨0x7F, 7, by decide⟩

theorem witness_DecimalDigitsAreStored_last : ∃ s : State, s.memoryCanonical ∧ s.I.toNat + 2 = 4095 :=
  ⟨startI 0xFFD [(5, 0xEA)], by decide⟩
theorem witness_DecimalDigitsAreStored_outside : ∃ s : State, s.I.toNat + 2 = 4096 :=
  ⟨startI 0xFFE [(5, 0xEA)], by decide⟩

theorem witness_StoreRegistersWritesTheBlock_last :
    ∃ (x r : Nibble) (s : State), s.memoryCanonical ∧ s.I.toNat + x.toNat = 4095 ∧ r.toNat ≤ x.toNat :=
  ⟨15, 15, startI 0xFF0 [(15, 9)], by decide⟩
theorem witness_StoreRegistersWritesTheBlock_outside :
    ∃ (x : Nibble) (s : State), 4096 = s.I.toNat + x.toNat := ⟨0, startI 0x1000 [], by decide⟩

theorem witness_LoadRegistersReadsTheBlock_last :
    ∃ (x r q : Nibble) (s : State), s.I.toNat + x.toNat = 4095 ∧ r.toNat = x.toNat ∧ x.toNat + 1 = q.toNat :=
  ⟨14, 14, 15, startI 0xFF1 [], by decide⟩
theorem witness_LoadRegistersReadsTheBlock_outside :
    ∃ (x : Nibble) (s : State), 4096 = s.I.toNat + x.toNat := ⟨15, startI 0xFF1 [], by decide⟩

theorem witness_LoadBringsBackWhatStoreSaved : ∃ s t u : State, s.memoryCanonical ∧
    s.I.toNat + (3 : Nibble).toNat = 4095 ∧ exec (.storeRegs 3) s = .next t ∧
    (∀ a, readByte u a = readByte t a) ∧ u.I = s.I :=
  let s := startI 0xFFC [(0, 1), (3, 4)]
  ⟨s, stepI (storeBytes s 0xFFC [1, 0, 0, 4]) 3, storeBytes s 0xFFC [1, 0, 0, 4], by decide, by decide, rfl,
    fun _ => rfl, rfl⟩

theorem witness_DrawInvertsTheCoveredCells_no_rows : ∃ (n : Nibble) (s : State), n.toNat = 0 ∧ s.I = 0xFFFF :=
  ⟨0, startI 0xFFFF [], by decide⟩
theorem witness_DrawInvertsTheCoveredCells_last :
    ∃ (n : Nibble) (s : State), 0 < n.toNat ∧ s.I.toNat + n.toNat - 1 = 4095 := ⟨2, startI 0xFFE [], by decide⟩
theorem witness_DrawInvertsTheCoveredCells_outside :
    ∃ (n : Nibble) (s : State), 0 < n.toNat ∧ 4096 = s.I.toNat + n.toNat - 1 := ⟨1, startI 0x1000 [], by decide⟩
theorem witness_DrawInvertsTheCoveredCells_collision :
    ∃ (s : State) (i : Nat), SpriteCovers s 62 0 1 i ∧ readCell s i = true :=
  ⟨sprites { startI 0x300 [] with fb := State.reset.fb.set 0 1 }, 0, ⟨0, by decide, 2, by decide⟩, by decide⟩
theorem witness_DrawInvertsTheCoveredCells_clear :
    ∃ s : State, SpriteCovers s 62 0 1 0 ∧ ∀ i, SpriteCovers s 62 0 1 i → readCell s i = false := by
  refine ⟨sprites (startI 0x300 []), ⟨0, by decide, 2, by decide⟩, ?_⟩
  rintro i ⟨row, hr, col, hc, -, rfl⟩
  have hi : 64 * ((0 + row) % 32) + (62 + col) % 64 < 2048 := by omega
  generalize 64 * ((0 + row) % 32) + (62 + col) % 64 = i at hi
  show Framebuffer.cell Framebuffer.blank i = false
  simp [Framebuffer.cell, Framebuffer.blank]

theorem witness_DrawingTwiceRestoresTheFramebuffer : ∃ s t u : State, s.I.toNat + (1 : Nibble).toNat - 1 < 4096 ∧
    exec (.drw 0 1 1) s = .next t ∧ readV u 0 = readV s 0 ∧ readV u 1 = readV s 1 ∧ u.I = s.I ∧
    (∀ a, readByte u a = readByte s a) ∧ ∀ i, readCell u i = readCell t i :=
  let s := sprites (startI 0x300 [(0, 62)])
  let d := drawSprite s.fb 62 0 (blockAtI s 1)
  let t := showFb (setFlag s d.2) d.1
  ⟨s, t, t, by decide, rfl, by decide, by decide, rfl, fun _ => rfl, fun _ => rfl⟩

theorem witness_SkipOnKey_key : ∃ s : State, (readV s 1).toNat = (15 : Fin 16).val :=
  ⟨start [(1, 15)], by decide⟩
theorem witness_SkipOnKey_no_key : ∃ s : State, (readV s 1).toNat = 16 := ⟨start [(1, 16)], by decide⟩

theorem witness_TimerMoves : ∃ s t : State, exec (.ldDtVx 2) s = .next t ∧ t.status = .running :=
  ⟨start [(2, 5)], _, rfl, by decide⟩

theorem witness_WaitForKeyTakesTheLowestOrRewinds_last :
    ∃ s : State, keyDown s 15 = true ∧ ∀ j, j < 15 → keyDown s j = false :=
  ⟨setKey 15 true State.reset, by decide⟩
theorem witness_WaitForKeyTakesTheLowestOrRewinds_first :
    ∃ s : State, keyDown s 0 = true ∧ ∀ j, j < 0 → keyDown s j = false :=
  ⟨setKey 0 true State.reset, by decide⟩
theorem witness_WaitForKeyTakesTheLowestOrRewinds_none :
    ∃ (s : State) (a : Word), (∀ k, keyDown s k = false) ∧ s.pc = a + 2 := ⟨State.reset, 0x1FE, by decide⟩

/-- One state for each cause an instruction can raise (R171), and one next to it that raises none. -/
theorem witness_FaultsExactlyWhereTheTableSays :
    faultOf .ret State.reset = some (.stackUnderflow, 0) ∧
    faultOf .ret { State.reset with sp := 1 } = none ∧
    faultOf (.call 0) { State.reset with sp := 16 } = some (.stackOverflow, 16) ∧
    faultOf (.call 0) { State.reset with sp := 15 } = none ∧
    faultOf (.drw 0 0 2) (startI 0xFFF []) = some (.memReadOob, 0xFFF) ∧
    faultOf (.drw 0 0 1) (startI 0xFFF []) = none ∧ faultOf (.drw 0 0 0) (startI 0xFFFF []) = none ∧
    faultOf (.loadRegs 1) (startI 0xFFF []) = some (.memReadOob, 0xFFF) ∧
    faultOf (.loadRegs 0) (startI 0xFFF []) = none ∧
    faultOf (.storeRegs 1) (startI 0xFFF []) = some (.memWriteOob, 0xFFF) ∧
    faultOf (.ldB 0) (startI 0xFFE []) = some (.memWriteOob, 0xFFE) ∧
    faultOf (.ldB 0) (startI 0xFFD []) = none ∧
    faultOf (.skp 1) (start [(1, 16)]) = some (.keyIndex, 16) ∧
    faultOf (.sknp 1) (start [(1, 15)]) = none := by decide

/-- One state for each report of R94. -/
theorem witness_ReportsAgreeWithTheState :
    stepReport stopped = some .stopped ∧
    stepReport (lastWord 0xF175) = some (.warn 0xF175 0xFFE) ∧
    stepReport { State.reset with pc := 0xFFF } = some (.fault .fetchOob 0xFFF 0xFFF) ∧
    stepReport (withWord 0x00EE State.reset) = some (.fault .stackUnderflow 0 0x200) ∧
    stepReport (lastWord 0x00E0) = some .ok := by decide
theorem witness_every_step_has_a_next_state : ∃ s t : State, step s = .next t := ⟨stopped, stopped, rfl⟩

theorem witness_PcAfterEveryStep :
    ({ State.reset with pc := 0xFFF } : State).status = .running ∧ (lastWord 0xF175).status = .running ∧
    (lastWord 0x1234).status = .running ∧ faultOf (.jp 0x234) (lastWord 0x1234) = none := by decide

theorem witness_RegisterReadsAndWritesAreTheTable : ∃ s t : State, exec (.ldReg 1 2) s = .next t ∧
    (∃ r, ¬ writesReg (.ldReg 1 2) s r) ∧ writesReg (.ldReg 1 2) s 1 ∧ ∃ w : Vector Byte 16, w ≠ s.v ∧
      ∀ r, readsReg (.ldReg 1 2) s r → readV { s with v := w } r = readV s r :=
  ⟨start [(2, 7)], _, rfl, ⟨3, fun h => absurd h.2 (by decide)⟩, ⟨rfl, rfl⟩,
    (start [(2, 7), (5, 9)]).v, by decide, by rintro r rfl; decide⟩

theorem witness_EachInstructionWritesOnlyItsParts :
    ∃ (i : Instr) (s t : State), exec i s = .next t ∧ Part.pc ∉ mayWrite i := ⟨.ldImm 1 2, State.reset, _, rfl, by decide⟩

theorem witness_NoInstructionReadsHostSideState : ∃ s s' : State, s ≠ s' ∧ visible s = visible s' :=
  ⟨State.reset, { State.reset with st := 4, redraw := true }, by decide⟩

theorem witness_ConfigurationIsReadOnlyWhereTheSpecSays :
    ∃ s t : State, exec (.shr 1 1) s = .next t ∧
      ∀ x y : Nibble, x ≠ y → Instr.shr 1 1 ≠ .shr x y ∧ Instr.shr 1 1 ≠ .shl x y := by
  refine ⟨start [(1, 5)], _, rfl, fun x y h => ⟨fun e => ?_, nofun⟩⟩
  cases e
  exact h rfl

theorem witness_InputLatchIsReadByTheKeyInstructionsOnly :
    ∃ s t : State, exec .cls s = .next t ∧
      ∀ x, Instr.cls ≠ .skp x ∧ Instr.cls ≠ .sknp x ∧ Instr.cls ≠ .ldVxK x :=
  ⟨State.reset, _, rfl, fun _ => ⟨nofun, nofun, nofun⟩⟩

theorem witness_RedrawIsSetByDrawingAndClearedByTheHost :
    (∃ s t : State, exec .cls s = .next t) ∧
    (∃ s t : State, faultOf (.drw 0 0 0) s = none ∧ exec (.drw 0 0 0) s = .next t) ∧
    ∃ s t : State, step s = .next t ∧ s.redraw = true :=
  ⟨⟨State.reset, _, rfl⟩, ⟨startI 0xFFFF [], _, by decide, rfl⟩,
    { stopped with redraw := true }, { stopped with redraw := true }, rfl, rfl⟩

/-- For the invariants of every step: a RUNNING state that takes a fault. -/
theorem witness_StepKeepsTheInvariants : ∃ s t : State, s.memoryCanonical ∧ s.PcBounded ∧ s.RecordAgrees ∧
    step s = .next t ∧ s.mem ≠ [] ∧ t.status = .faulted :=
  ⟨withWord 0x00EE State.reset, takeFault .stackUnderflow 0 0x200 (advancePc (withWord 0x00EE State.reset)),
    by decide, ⟨by decide, by decide⟩, ⟨rfl, rfl, rfl⟩, rfl, by decide, rfl⟩

theorem witness_EveryRunKeepsTheInvariants : ∃ (es : List Event) (s t : State), es ≠ [] ∧ s.memoryCanonical ∧
    s.PcBounded ∧ s.RecordAgrees ∧ runEvents es s = .next t :=
  ⟨[.setKey 3 true, .ackRedraw], State.reset, _, by decide, by decide, ⟨by decide, by decide⟩,
    ⟨rfl, rfl, rfl⟩, rfl⟩

theorem witness_FirstStepAfterLoadFetchesFrom0x200_least :
    ([0x60, 0x0A] : Program).length ≤ 3584 ∧ decode (0x60#8 ++ 0x0A#8) = some (.ldImm 0 0x0A) := by decide
theorem witness_FirstStepAfterLoadFetchesFrom0x200_unrecognised : decode (0x00#8 ++ 0x00#8) = none := by decide
theorem witness_FirstStepAfterLoadFetchesFrom0x200_most :
    ∃ (hi lo : Byte) (rest : Program), (hi :: lo :: rest).length = 3584 :=
  ⟨0x60, 0x0A, List.replicate 3582 0, congrArg (· + 2) List.length_replicate⟩

theorem witness_TickCountsBothTimersDown : State.reset.status = .running ∧ stopped.status = .faulted := by decide

theorem witness_TimersRunDownAndStayAtZero : ∃ s : State, s.status = .running ∧ s.dt = 255 :=
  ⟨{ State.reset with dt := 255 }, by decide⟩

theorem witness_ExternalTickIsIpfStepsThenOneTick_slow : ∃ s : State, s.config.ips = 59 :=
  ⟨{ State.reset with config := { State.reset.config with ips := 59 } }, rfl⟩
theorem witness_ExternalTickIsIpfStepsThenOneTick_fault : ∃ s u : State,
    runEvents (List.replicate (s.config.ips / 60) .step) s = .next u ∧ u.status = .faulted :=
  ⟨stopped, stopped, rfl, rfl⟩

theorem witness_LoadCopiesTheProgramOrRefusesIt :
    State.reset.memoryCanonical ∧ (List.replicate 3584 (7 : Byte)).length ≤ 3584 ∧
      3584 < (List.replicate 3585 (7 : Byte)).length :=
  ⟨by decide, Nat.le_of_eq List.length_replicate, Nat.le_of_eq List.length_replicate.symm⟩

theorem witness_RunningOffTheEndFaults : ∃ s : State, s.status = .running ∧ s.pc.toNat + 2 * 1 = 0x1000 ∧
    ∀ a, s.pc.toNat ≤ a → a < 4096 → readByte s a = 0 := by
  refine ⟨{ State.reset with pc := 0xFFE }, rfl, rfl, fun a h _ => ?_⟩
  replace h : 0xFFE ≤ a := h
  show Memory.unlisted _ a = 0
  exact dif_neg (show ¬ a < 80 by omega)

theorem witness_MemoriesThatReadAlikeAreEqual : ∃ (font : Vector Byte 80) (m m' : Memory), Memory.wf font m ∧
    Memory.wf font m' ∧ m ≠ [] ∧ ∀ a, a < 4096 → Memory.read font m a = Memory.read font m' a :=
  ⟨Config.defaultFont, [(0x000, 1), (0xFFF, 2)], [(0x000, 1), (0xFFF, 2)], by decide, by decide, by decide,
    fun _ _ => rfl⟩

theorem witness_StoredBytesAreFetchedByTheNextStep_store : ∃ (s t : State) (i : Instr), s.memoryCanonical ∧
    s.status = .running ∧ s.I = s.pc ∧ s.pc.toNat = 0xFFE ∧ exec (.storeRegs 1) s = .next t ∧
    decode (readV s 0 ++ readV s 1) = some i :=
  let s : State := { startI 0xFFE [(0, 0x12), (1, 0x08)] with pc := 0xFFE }
  ⟨s, stepI (storeBytes s 0xFFE [0x12, 0x08]) 1, .jp 0x208, by decide, rfl, rfl, rfl, rfl, by decide⟩
theorem witness_StoredBytesAreFetchedByTheNextStep_place : ∃ (s : State) (op : Word) (i : Instr),
    s.memoryCanonical ∧ s.pc.toNat = 0xFFF ∧ s.status = .faulted ∧ decode op = some i :=
  ⟨{ stopped with pc := 0xFFF }, 0x00E0, .cls, by decide⟩

end Sys2Proof.Tests
end

section
/-! PROOFS. The invariants of every run (O50). An instruction that the table of R171 lets fault takes exactly
that fault (`exec_of_faultOf_some`); every other instruction completes (`exec_of_faultOf_none`), and
`Completed` says what that can do to the parts the invariants speak of. `step_result` gathers both for one
step; the invariants of a step, of an event and of a run follow from it. -/

namespace Sys2Proof.Machine

/-! ### What a completed instruction can do -/

/-- Where an instruction that completes can leave PC (R25, R100 to R108, R165), `s` being the state after
the fetch-side increment. -/
inductive PcTarget (s : State) : Word → Prop
  | next : PcTarget s s.pc
  | skip : PcTarget s (s.pc + 2)
  | rewind : PcTarget s (s.pc - 2)
  | jump (nnn : Addr) : PcTarget s (zext16 nnn)
  | jumpV0 (nnn : Addr) (b : Byte) : PcTarget s (zext16 nnn + zext16 b)
  | ret (k : Fin 16) : PcTarget s (stackEntry s k)

/-- What an instruction that completes at `s` can do to the parts the invariants speak of: the fault record
is kept (R36), PC goes where `PcTarget` says, a stack entry stays or becomes the return address (R102), and
memory stays canonical. -/
structure Completed (s t : State) : Prop where
  status : t.status = s.status
  faultCause : t.faultCause = s.faultCause
  faultInfo : t.faultInfo = s.faultInfo
  faultIpc : t.faultIpc = s.faultIpc
  pc : PcTarget s t.pc
  stack : ∀ k, stackEntry t k = stackEntry s k ∨ stackEntry t k = s.pc
  memory : s.memoryCanonical → t.memoryCanonical

namespace Completed

theorem refl (s : State) : Completed s s :=
  ⟨rfl, rfl, rfl, rfl, .next, fun _ => .inl rfl, id⟩

/-! Updates of the parts no invariant speaks of may follow. -/

section
variable {s u : State} (h : Completed s u)
include h

theorem writeV (x : Nibble) (b : Byte) : Completed s (writeV u x b) := { h with }
theorem writeResultThenFlag (x : Nibble) (r : Byte) (c : Bool) :
    Completed s (writeResultThenFlag u x r c) := (h.writeV x r).writeV vf (flagByte c)
theorem setI (w : Word) : Completed s (setI u w) := { h with }
theorem setDt (b : Byte) : Completed s (setDt u b) := { h with }
theorem setSt (b : Byte) : Completed s (setSt u b) := { h with }
theorem showFb (fb : Framebuffer) : Completed s (showFb u fb) := { h with }
theorem countDraw : Completed s (countDraw u) := { h with }

theorem writeRegs (k : Nat) (bs : List Byte) : Completed s (writeRegs u k bs) := by
  induction bs generalizing u k with
  | nil => exact h
  | cons b bs ih => exact ih (h.writeV _ b) (k + 1)

theorem writeByte (a : Nat) (b : Byte) : Completed s (writeByte u a b) :=
  { h with memory := fun hm => writeByte_wf u a b (h.memory hm) }

theorem storeBytes (a : Nat) (bs : List Byte) : Completed s (storeBytes u a bs) := by
  induction bs generalizing u a with
  | nil => exact h
  | cons b bs ih => exact ih (h.writeByte a b) (a + 1)

end

/-! The control transfers. -/

theorem setPc {s : State} {w : Word} (hw : PcTarget s w) : Completed s (setPc s w) :=
  { refl s with pc := hw }

theorem skipIf (s : State) (c : Bool) : Completed s (skipIf c s) := by
  cases c
  case false => exact refl s
  case true => exact setPc .skip

theorem popPc {s : State} (hsp : s.sp.val ≠ 0) : Completed s (popPc s) := by
  obtain ⟨-, hpc⟩ := popPc_spec s ⟨s.sp.val - 1, by omega⟩ (Nat.succ_pred_eq_of_ne_zero hsp).symm
  exact ⟨by simp, by simp, by simp, by simp, hpc ▸ .ret _, by simp, by simp [State.memoryCanonical]⟩

theorem call {s : State} (hsp : s.sp.val ≠ 16) (nnn : Addr) :
    Completed s (Machine.setPc (push s s.pc) (zext16 nnn)) := by
  obtain ⟨-, hstack⟩ := push_spec s s.pc (by have := s.sp.isLt; omega)
  refine ⟨by simp, by simp, by simp, by simp, .jump nnn, fun k => ?_, by simp [State.memoryCanonical]⟩
  rw [stackEntry_setPc, hstack k]
  split
  · exact .inr rfl
  · exact .inl rfl

end Completed

/-! ### Which instructions fault, and with which record (R171, R173) -/

/-- R56, as the table of R171 writes it: the last byte of the block lies outside memory. -/
theorem blockOutside_iff_last (s : State) (n : Nat) :
    blockOutside s n = true ↔ 0 < n ∧ 4096 ≤ s.I.toNat + n - 1 := by
  rw [blockOutside_iff]
  omega

theorem keyCode_eq_none {v : Byte} (h : 15 < v.toNat) : keyCode v = none :=
  dif_neg (by omega)

theorem exists_keyCode_eq_some {v : Byte} (h : ¬ 15 < v.toNat) : ∃ k, keyCode v = some k :=
  ⟨_, dif_pos (by omega)⟩

/-- Where the table of R171 gives a fault, the instruction takes it, with the table's cause and info. -/
theorem exec_of_faultOf_some {i : Instr} {s : State} {c : FaultCause} {n : Nat}
    (h : faultOf i s = some (c, n)) :
    exec i s = .next (takeFault c (BitVec.ofNat 16 n) (s.pc - 2) s) := by
  cases i
  case ret | call | drw | ldB | storeRegs | loadRegs | skp | sknp =>
    simp only [faultOf, Option.ite_none_right_eq_some, Option.some.injEq, Prod.mk.injEq] at h
    obtain ⟨hf, rfl, rfl⟩ := h
    simp [exec, execRet, execCall, execDrw, execLdB, execStoreRegs, execLoadRegs, execSkp, execSknp,
      raiseFault, blockOutside_iff_last, keyCode_eq_none, hf]
  all_goals cases h

/-- Where the table of R171 gives no fault, the instruction completes. -/
theorem exec_of_faultOf_none {i : Instr} {s : State} (h : faultOf i s = none) :
    ∃ t, exec i s = .next t ∧ Completed s t := by
  have unchanged := Completed.refl s
  cases i with
  | cls => exact ⟨_, rfl, unchanged.showFb _⟩
  | ret =>
    have hsp : s.sp.val ≠ 0 := by simpa [faultOf] using h
    exact ⟨_, if_neg hsp, .popPc hsp⟩
  | jp nnn => exact ⟨_, rfl, .setPc (.jump nnn)⟩
  | call nnn =>
    have hsp : s.sp.val ≠ 16 := by simpa [faultOf] using h
    exact ⟨_, if_neg hsp, .call hsp nnn⟩
  | seImm | sneImm | seReg | sneReg => exact ⟨_, rfl, .skipIf s _⟩
  | ldImm | addImm | ldReg | orReg | andReg | xorReg | ldVxDt => exact ⟨_, rfl, unchanged.writeV _ _⟩
  | addReg | subReg | shr | subnReg | shl => exact ⟨_, rfl, unchanged.writeResultThenFlag _ _ _⟩
  | ldI | addI | ldF => exact ⟨_, rfl, unchanged.setI _⟩
  | jpV0 nnn => exact ⟨_, rfl, .setPc (.jumpV0 nnn _)⟩
  | rnd => exact ⟨_, rfl, (unchanged.writeV _ _).countDraw⟩
  | drw x y n =>
    have hin : ¬ blockOutside s n.toNat = true := by
      simpa [faultOf, blockOutside_iff_last] using h
    exact ⟨_, if_neg hin, (unchanged.writeV vf _).showFb _⟩
  | skp x =>
    obtain ⟨k, hk⟩ : ∃ k, keyCode (readV s x) = some k :=
      exists_keyCode_eq_some (by simpa [faultOf] using h)
    exact ⟨_, by simp only [exec, execSkp, hk], .skipIf s (keyDown s k)⟩
  | sknp x =>
    obtain ⟨k, hk⟩ : ∃ k, keyCode (readV s x) = some k :=
      exists_keyCode_eq_some (by simpa [faultOf] using h)
    exact ⟨_, by simp only [exec, execSknp, hk], .skipIf s (!keyDown s k)⟩
  | ldVxK x =>
    cases hk : firstKey s with
    | none => exact ⟨rewindPc s, by simp only [exec, execLdVxK, hk], .setPc .rewind⟩
    | some k => exact ⟨_, by simp only [exec, execLdVxK, hk], unchanged.writeV x (BitVec.ofNat 8 k)⟩
  | ldDtVx => exact ⟨_, rfl, unchanged.setDt _⟩
  | ldStVx => exact ⟨_, rfl, unchanged.setSt _⟩
  | ldB x =>
    have hin : ¬ blockOutside s 3 = true := by simpa [faultOf, blockOutside_iff_last] using h
    exact ⟨_, if_neg hin, unchanged.storeBytes _ _⟩
  | storeRegs x =>
    have hin : ¬ blockOutside s (x.toNat + 1) = true := by
      simpa [faultOf, blockOutside_iff_last] using h
    exact ⟨_, if_neg hin, (unchanged.storeBytes _ _).setI _⟩
  | loadRegs x =>
    have hin : ¬ blockOutside s (x.toNat + 1) = true := by
      simpa [faultOf, blockOutside_iff_last] using h
    exact ⟨_, if_neg hin, (unchanged.writeRegs _ _).setI _⟩

/-! ### What one step can do -/

/-- The four ways a step ends (R90, R93 to R95, R173). -/
inductive StepResult (s : State) : State → Prop
  | stopped (faulted : s.status = .faulted) : StepResult s s
  | fetchFault (running : s.status = .running) (outside : 0xFFE < s.pc.toNat) :
      StepResult s (takeFault .fetchOob s.pc s.pc s)
  | fault (running : s.status = .running) (inside : s.pc.toNat ≤ 0xFFE) (i : Instr) (c : FaultCause)
      (n : Nat) (hf : faultOf i (advancePc s) = some (c, n)) :
      StepResult s (takeFault c (BitVec.ofNat 16 n) s.pc (advancePc s))
  | completed (running : s.status = .running) (inside : s.pc.toNat ≤ 0xFFE) {t : State}
      (hc : Completed (advancePc s) t) : StepResult s t

theorem step_result {s t : State} (h : step s = .next t) : StepResult s t := by
  unfold step at h
  split at h
  next faulted => cases h; exact .stopped faulted
  next running =>
    split at h
    next outside => cases h; exact .fetchFault running (of_decide_eq_true outside)
    next inside =>
      have inside : s.pc.toNat ≤ 0xFFE := by simpa [fetchOutside] using inside
      split at h
      next i _ =>
        cases hf : faultOf i (advancePc s) with
        | none =>
          obtain ⟨u, hu, hc⟩ := exec_of_faultOf_none hf
          cases hu.symm.trans h
          exact .completed running inside hc
        | some p =>
          cases (exec_of_faultOf_some hf).symm.trans h
          simpa using StepResult.fault running inside i _ _ hf
      next => cases h; exact .completed running inside (.refl _)

/-! ### The three invariants under a step -/

theorem step_keeps_memoryCanonical {s t : State} (hm : s.memoryCanonical) (h : step s = .next t) :
    t.memoryCanonical := by
  cases step_result h with
  | stopped | fetchFault | fault => exact hm
  | completed _ _ hc => exact hc.memory hm

/-- R24: after a fetch from 0xFFE or below, no target is above 0x10FE. -/
theorem PcTarget.le {s : State} {w : Word} (h : PcTarget (advancePc s) w) (inside : s.pc.toNat ≤ 0xFFE)
    (hstack : ∀ k, (stackEntry s k).toNat ≤ 0x1000) : w.toNat ≤ 0x10FE := by
  cases h with
  | next | skip | rewind => simp only [advancePc_pc]; bv_omega
  | jump nnn => bv_omega
  | jumpV0 nnn b => bv_omega
  | ret k => have := hstack k; simp only [stackEntry_advancePc]; omega

theorem step_keeps_pcBounded {s t : State} (hb : s.PcBounded) (h : step s = .next t) : t.PcBounded := by
  obtain ⟨hpc, hstack⟩ := hb
  cases step_result h with
  | stopped | fetchFault => exact ⟨hpc, hstack⟩
  | fault _ inside => exact ⟨PcTarget.next.le inside hstack, hstack⟩
  | completed _ inside hc =>
    refine ⟨hc.pc.le inside hstack, fun k => ?_⟩
    rcases hc.stack k with hk | hk <;> rw [hk]
    · exact hstack k
    · simp only [advancePc_pc]; bv_omega

/-- A RUNNING machine's fault record is true when it is empty. -/
theorem recordAgrees_iff_of_running {s : State} (h : s.status = .running) :
    s.RecordAgrees ↔ s.faultCause = .none ∧ s.faultInfo = 0 ∧ s.faultIpc = 0 := by
  simp [State.RecordAgrees, h]

/-- A byte fits the 16-bit info of a fault record unchanged. -/
theorem byte_toNat_mod (b : Byte) : b.toNat % 65536 = b.toNat := Nat.mod_eq_of_lt (by omega)

theorem byte_toNat_le (b : Byte) : b.toNat ≤ 255 := Nat.le_of_lt_succ b.isLt

/-- R171, R173: the record of a fault that an instruction takes is true. -/
theorem recordAgrees_of_faultOf_some {i : Instr} {s : State} {c : FaultCause} {n : Nat} {a : Word}
    (hf : faultOf i s = some (c, n)) (hpc : s.pc = a + 2) :
    (takeFault c (BitVec.ofNat 16 n) a s).RecordAgrees := by
  cases i
  case ret | call | drw | ldB | storeRegs | loadRegs | skp | sknp =>
    simp only [faultOf, Option.ite_none_right_eq_some, Option.some.injEq, Prod.mk.injEq] at hf
    obtain ⟨hf, rfl, rfl⟩ := hf
    simp [State.RecordAgrees, hpc, Fin.ext_iff, byte_toNat_mod, byte_toNat_le, hf]
  all_goals cases hf

theorem step_keeps_recordAgrees {s t : State} (hr : s.RecordAgrees) (h : step s = .next t) :
    t.RecordAgrees := by
  cases step_result h with
  | stopped => exact hr
  | fetchFault _ outside => exact ⟨rfl, rfl, outside⟩
  | fault _ _ i c n hf => exact recordAgrees_of_faultOf_some hf rfl
  | completed running _ hc =>
    have hrun : t.status = .running := hc.status.trans running
    rw [recordAgrees_iff_of_running running] at hr
    rw [recordAgrees_iff_of_running hrun, hc.faultCause, hc.faultInfo, hc.faultIpc]
    exact hr

/-! ### The three invariants under every event and every run -/

/-- The three invariants of O47, O48 and O49. -/
structure State.Invariants (s : State) : Prop where
  memory : s.memoryCanonical
  pc : s.PcBounded
  record : s.RecordAgrees

theorem resetEvent_invariants (s : State) : (resetEvent s).Invariants where
  memory := Memory.wf_nil _
  pc := ⟨by simp [resetEvent, State.reset], fun k => by simp [stackEntry, resetEvent, State.reset]⟩
  record := ⟨rfl, rfl, rfl⟩

theorem State.Invariants.storeBytes {s : State} (h : s.Invariants) (a : Nat) (bs : List Byte) :
    (storeBytes s a bs).Invariants where
  memory := by simpa [State.memoryCanonical] using storeBytes_wf bs s a h.memory
  pc := by simpa [State.PcBounded] using h.pc
  record := by simpa [State.RecordAgrees] using h.record

theorem State.Invariants.load {s : State} (h : s.Invariants) (p : Program) : (load p s).Invariants := by
  unfold Machine.load
  split
  · exact h.storeBytes _ _
  · exact h

theorem State.Invariants.tick {s : State} (h : s.Invariants) : (tick s).Invariants := by
  unfold Machine.tick
  split
  · exact h
  · exact ⟨h.memory, h.pc, h.record⟩

theorem State.Invariants.deliver {e : Event} {s t : State} (hs : s.Invariants)
    (h : deliver e s = .next t) : t.Invariants := by
  cases e with
  | reset => cases h; exact resetEvent_invariants s
  | load p => cases h; exact hs.load p
  | step =>
    exact ⟨step_keeps_memoryCanonical hs.memory h, step_keeps_pcBounded hs.pc h,
      step_keeps_recordAgrees hs.record h⟩
  | tick => cases h; exact hs.tick
  | setKey | ackRedraw => cases h; exact ⟨hs.memory, hs.pc, hs.record⟩

theorem runEvents_cons_eq_next {e : Event} {es : List Event} {s t : State} :
    runEvents (e :: es) s = .next t ↔ ∃ u, deliver e s = .next u ∧ runEvents es u = .next t := by
  rw [runEvents]
  cases deliver e s <;> simp

/-- What every event keeps, every run keeps (R97). -/
theorem runEvents_keeps {P : State → Prop} (keep : ∀ e s t, P s → deliver e s = .next t → P t)
    {es : List Event} {s t : State} (hs : P s) (h : runEvents es s = .next t) : P t := by
  induction es generalizing s with
  | nil => cases h; exact hs
  | cons e es ih =>
    obtain ⟨u, hu, h⟩ := runEvents_cons_eq_next.1 h
    exact ih (keep e s u hs hu) h

/-- Settles O50: each of the six events keeps the three invariants together, so every run does. -/
theorem everyRunKeepsTheInvariants : Obligations.EveryRunKeepsTheInvariants := by
  intro es s t hmem hpc hrec h
  have ht : t.Invariants := runEvents_keeps (fun _ _ _ hs => hs.deliver) ⟨hmem, hpc, hrec⟩ h
  exact ⟨ht.memory, ht.pc, ht.record⟩

end Sys2Proof.Machine
end

section
/-! PROOFS. The state (10_state.md): what every step keeps, which instruction writes which part, and which
parts an instruction depends on. `complete` is the meaning of an instruction without its fault check, so
that an instruction either takes the fault of the table of R171 or reaches its completed state
(`exec_cases`). `complete_sameExcept` is its frame (R22 to R36); `exec_agreeOn` says what it depends on, and
the statements that compare two runs (O41, O43 to O46) are its cases. -/

namespace Sys2Proof.Machine

/-! ### The invariants of one step, and of reset -/

/-- Settles O48: `PcTarget.le` bounds every place PC can go, and only a return address is pushed. -/
theorem stepKeepsPcBounded : Obligations.StepKeepsPcBounded :=
  fun _ _ hb h => step_keeps_pcBounded hb h

/-- Settles O49: a fault that a step takes is recorded as the table of R171 says, and a completed step
leaves the empty record empty. -/
theorem stepKeepsTheFaultRecordTrue : Obligations.StepKeepsTheFaultRecordTrue :=
  fun _ _ hr h => step_keeps_recordAgrees hr h

/-- Settles O51: `State.reset` is what the reset event makes of itself. -/
theorem resetMeetsTheInvariants : Obligations.ResetMeetsTheInvariants := by
  have hreset (s : State) :
      (resetEvent s).memoryCanonical ∧ (resetEvent s).PcBounded ∧ (resetEvent s).RecordAgrees :=
    ⟨(resetEvent_invariants s).memory, (resetEvent_invariants s).pc, (resetEvent_invariants s).record⟩
  exact ⟨hreset State.reset, hreset⟩

theorem readV_resetEvent (s : State) (r : Nibble) : readV (resetEvent s) r = 0 := by
  simp [readV, resetEvent, State.reset]

theorem stackEntry_resetEvent (s : State) (k : Fin 16) : stackEntry (resetEvent s) k = 0 := by
  simp [stackEntry, resetEvent, State.reset]

theorem keyDown_resetEvent (s : State) (k : Fin 16) : keyDown (resetEvent s) k = false := by
  simp [keyDown, resetEvent, State.reset]

/-- R40, D7: after reset memory is empty, so every address reads as unlisted. -/
theorem readByte_resetEvent (s : State) (a : Nat) :
    readByte (resetEvent s) a = Memory.unlisted s.config.font a := rfl

theorem readCell_resetEvent (s : State) (i : Nat) : readCell (resetEvent s) i = false := by
  simp [readCell, Framebuffer.cell, resetEvent, State.reset]

/-- Settles O52, part by part. -/
theorem resetPutsEveryPartAtItsValue : Obligations.ResetPutsEveryPartAtItsValue := by
  intro s
  have hfont (a : Nat) (h : a < 80) : readByte (resetEvent s) a = s.config.font[a] := dif_pos h
  have hzero (a : Nat) (h : 80 ≤ a) : readByte (resetEvent s) a = 0 := dif_neg (Nat.not_lt.2 h)
  exact ⟨resetEvent s, rfl, readV_resetEvent s, rfl, rfl, rfl, stackEntry_resetEvent s, hfont, hzero,
    readCell_resetEvent s, rfl, rfl, rfl, keyDown_resetEvent s, rfl, rfl, rfl, rfl⟩

/-! ### The meaning of an instruction that completes -/

/-- What an instruction that the table of R171 lets complete makes of the state: its meaning without the
fault check (`exec_eq_complete`). -/
def complete (i : Instr) (s : State) : State :=
  match i with
  | .cls => showFb s Framebuffer.blank
  | .ret => popPc s
  | .jp nnn => setPc s (zext16 nnn)
  | .call nnn => setPc (push s s.pc) (zext16 nnn)
  | .seImm x nn => skipIf (readV s x == nn) s
  | .sneImm x nn => skipIf (readV s x != nn) s
  | .seReg x y => skipIf (readV s x == readV s y) s
  | .sneReg x y => skipIf (readV s x != readV s y) s
  | .ldImm x nn => writeV s x nn
  | .addImm x nn => writeV s x (readV s x + nn)
  | .ldReg x y => writeV s x (readV s y)
  | .orReg x y => writeV s x (readV s x ||| readV s y)
  | .andReg x y => writeV s x (readV s x &&& readV s y)
  | .xorReg x y => writeV s x (readV s x ^^^ readV s y)
  | .addReg x y =>
    writeResultThenFlag s x (readV s x + readV s y) (carryOut (readV s x) (readV s y))
  | .subReg x y =>
    writeResultThenFlag s x (readV s x - readV s y) (noBorrow (readV s x) (readV s y))
  | .subnReg x y =>
    writeResultThenFlag s x (readV s y - readV s x) (noBorrow (readV s y) (readV s x))
  | .shr x y =>
    writeResultThenFlag s x (shiftOperand s x y >>> 1) (lowBitOut (shiftOperand s x y))
  | .shl x y =>
    writeResultThenFlag s x (shiftOperand s x y <<< 1) (highBitOut (shiftOperand s x y))
  | .ldI nnn => setI s (zext16 nnn)
  | .addI x => setI s (s.I + zext16 (readV s x))
  | .ldF x => setI s (zext16 (readV s x) * 5)
  | .jpV0 nnn => setPc s (zext16 nnn + zext16 (readV s 0))
  | .rnd x nn => countDraw (writeV s x (drawnByte s &&& nn))
  | .drw x y n =>
    let drawn := drawSprite s.fb (readV s x).toNat (readV s y).toNat (blockAtI s n.toNat)
    showFb (setFlag s drawn.2) drawn.1
  | .skp x => skipIf ((keyCode (readV s x)).any (keyDown s)) s
  | .sknp x => skipIf ((keyCode (readV s x)).any fun k => !keyDown s k) s
  | .ldVxDt x => writeV s x s.dt
  | .ldVxK x =>
    match firstKey s with
    | some k => writeV s x (BitVec.ofNat 8 k.val)
    | none => rewindPc s
  | .ldDtVx x => setDt s (readV s x)
  | .ldStVx x => setSt s (readV s x)
  | .ldB x => storeBytes s s.I.toNat (decimalDigits (readV s x))
  | .storeRegs x => stepI (storeBytes s s.I.toNat (regsUpTo s x)) x
  | .loadRegs x => stepI (writeRegs s 0 (blockAtI s (x.toNat + 1))) x

/-- Where the table of R171 gives no fault, `exec` answers the completed state. -/
theorem exec_eq_complete {i : Instr} {s : State} (h : faultOf i s = none) :
    exec i s = .next (complete i s) := by
  cases i with
  | ret | call =>
    simp only [faultOf, ite_eq_right_iff, reduceCtorEq, imp_false] at h
    exact if_neg h
  | drw | ldB | storeRegs | loadRegs =>
    simp only [faultOf, ite_eq_right_iff, reduceCtorEq, imp_false] at h
    exact if_neg (mt (blockOutside_iff_last s _).1 (by simpa using h))
  | skp x | sknp x =>
    obtain ⟨k, hk⟩ : ∃ k, keyCode (readV s x) = some k :=
      exists_keyCode_eq_some (by simpa [faultOf] using h)
    simp [exec, execSkp, execSknp, complete, hk]
  | ldVxK => cases hk : firstKey s <;> simp only [exec, execLdVxK, complete, hk]
  | _ => rfl

/-- The two ways an instruction ends: it completes, or it takes the fault of the table of R171 (R173). -/
theorem exec_cases {i : Instr} {s t : State} (h : exec i s = .next t) :
    (faultOf i s = none ∧ t = complete i s) ∨
      ∃ c n, faultOf i s = some (c, n) ∧ t = takeFault c (BitVec.ofNat 16 n) (s.pc - 2) s := by
  cases hf : faultOf i s with
  | none => cases (exec_eq_complete hf).symm.trans h; exact .inl ⟨rfl, rfl⟩
  | some p => cases (exec_of_faultOf_some hf).symm.trans h; exact .inr ⟨_, _, rfl, rfl⟩

/-- No instruction is refused, and none stops the machine (R170). -/
theorem exists_exec_eq_next (i : Instr) (s : State) : ∃ t, exec i s = .next t := by
  cases hf : faultOf i s with
  | none => exact ⟨_, exec_eq_complete hf⟩
  | some p => exact ⟨_, exec_of_faultOf_some hf⟩

@[simp] theorem blockAtI_length (s : State) (n : Nat) : (blockAtI s n).length = n :=
  readBytes_length s _ n

/-! ### What an instruction leaves unchanged -/

namespace SameExcept

theorem refl (ps : List Part) (s : State) : SameExcept ps s s := by
  constructor <;> intros <;> rfl

section
variable {ps : List Part} {s u : State} (h : SameExcept ps s u)
include h

theorem writeV {x : Nibble} (hp : .reg x ∈ ps) (b : Byte) : SameExcept ps s (writeV u x b) :=
  { h with regs := fun r hr => (readV_writeV_other u b fun e => hr (by rwa [e])).trans (h.regs r hr) }

theorem writeResultThenFlag {x : Nibble} (hx : .reg x ∈ ps) (hvf : .reg vf ∈ ps) (r : Byte) (c : Bool) :
    SameExcept ps s (writeResultThenFlag u x r c) := (h.writeV hx r).writeV hvf (flagByte c)

theorem writeRegs {k : Nat} {bs : List Byte}
    (hp : ∀ j < k + bs.length, .reg (BitVec.ofNat 4 j) ∈ ps) : SameExcept ps s (writeRegs u k bs) := by
  induction bs generalizing u k with
  | nil => exact h
  | cons b bs ih =>
    rw [List.length_cons] at hp
    exact ih (h.writeV (hp k (by omega)) b) fun j hj => hp j (by omega)

theorem setPc (hp : .pc ∈ ps) (w : Word) : SameExcept ps s (setPc u w) :=
  { h with pc := fun hn => absurd hp hn }

theorem skipIf (hp : .pc ∈ ps) (c : Bool) : SameExcept ps s (skipIf c u) := by
  cases c with
  | false => exact h
  | true => exact h.setPc hp (u.pc + 2)

theorem setI (hp : .index ∈ ps) (w : Word) : SameExcept ps s (setI u w) :=
  { h with index := fun hn => absurd hp hn }

theorem setDt (hp : .dt ∈ ps) (b : Byte) : SameExcept ps s (setDt u b) :=
  { h with dt := fun hn => absurd hp hn }

theorem setSt (hp : .st ∈ ps) (b : Byte) : SameExcept ps s (setSt u b) :=
  { h with st := fun hn => absurd hp hn }

theorem countDraw (hp : .draws ∈ ps) : SameExcept ps s (countDraw u) :=
  { h with draws := fun hn => absurd hp hn }

theorem showFb (hf : .framebuffer ∈ ps) (hr : .redraw ∈ ps) (fb : Framebuffer) :
    SameExcept ps s (showFb u fb) :=
  { h with framebuffer := fun hn => absurd hf hn, redraw := fun hn => absurd hr hn }

theorem writeByte (hp : .memory ∈ ps) (a : Nat) (b : Byte) : SameExcept ps s (writeByte u a b) :=
  { h with memory := fun hn => absurd hp hn }

theorem storeBytes (hp : .memory ∈ ps) (a : Nat) (bs : List Byte) :
    SameExcept ps s (storeBytes u a bs) := by
  induction bs generalizing u a with
  | nil => exact h
  | cons b bs ih => exact ih (h.writeByte hp a b) (a + 1)

theorem push (hst : .stack ∈ ps) (hsp : .sp ∈ ps) (w : Word) : SameExcept ps s (push u w) := by
  unfold Machine.push
  split
  · exact { h with stack := fun hn => absurd hst hn, sp := fun hn => absurd hsp hn }
  · exact h

theorem popPc (hsp : .sp ∈ ps) (hpc : .pc ∈ ps) : SameExcept ps s (popPc u) := by
  unfold Machine.popPc
  split
  · exact { h with sp := fun hn => absurd hsp hn, pc := fun hn => absurd hpc hn }
  · exact h

theorem takeFault (hp : .fault ∈ ps) (c : FaultCause) (i a : Word) :
    SameExcept ps s (takeFault c i a u) :=
  { h with
    status := fun hn => absurd hp hn, faultCause := fun hn => absurd hp hn
    faultInfo := fun hn => absurd hp hn, faultIpc := fun hn => absurd hp hn }

end

end SameExcept

/-- The parts a completed instruction leaves as they were (R22 to R36). -/
theorem complete_sameExcept (i : Instr) (s : State) : SameExcept (mayWrite i) s (complete i s) := by
  have unchanged := SameExcept.refl (mayWrite i) s
  cases i with
  | cls => exact unchanged.showFb (by simp [mayWrite]) (by simp [mayWrite]) _
  | ret => exact unchanged.popPc (by simp [mayWrite]) (by simp [mayWrite])
  | call =>
    exact (unchanged.push (by simp [mayWrite]) (by simp [mayWrite]) _).setPc (by simp [mayWrite]) _
  | jp | jpV0 => exact unchanged.setPc (by simp [mayWrite]) _
  | seImm | sneImm | seReg | sneReg | skp | sknp => exact unchanged.skipIf (by simp [mayWrite]) _
  | ldImm | addImm | ldReg | orReg | andReg | xorReg | ldVxDt =>
    exact unchanged.writeV (by simp [mayWrite]) _
  | addReg | subReg | subnReg | shr | shl =>
    exact unchanged.writeResultThenFlag (by simp [mayWrite]) (by simp [mayWrite]) _ _
  | ldI | addI | ldF => exact unchanged.setI (by simp [mayWrite]) _
  | rnd => exact (unchanged.writeV (by simp [mayWrite]) _).countDraw (by simp [mayWrite])
  | drw =>
    exact (unchanged.writeV (x := vf) (by simp [mayWrite]) _).showFb
      (by simp [mayWrite]) (by simp [mayWrite]) _
  | ldVxK =>
    simp only [complete]
    split
    · exact unchanged.writeV (by simp [mayWrite]) _
    · exact unchanged.setPc (by simp [mayWrite]) _
  | ldDtVx => exact unchanged.setDt (by simp [mayWrite]) _
  | ldStVx => exact unchanged.setSt (by simp [mayWrite]) _
  | ldB => exact unchanged.storeBytes (by simp [mayWrite]) _ _
  | storeRegs =>
    exact (unchanged.storeBytes (by simp [mayWrite]) _ _).setI (by simp [mayWrite]) _
  | loadRegs x =>
    refine (unchanged.writeRegs fun j hj => ?_).setI (by simp [mayWrite]) _
    have hj : j < x.toNat + 1 := by simpa using hj
    exact List.mem_append_right _ (List.mem_map.2 ⟨j, List.mem_range.2 hj, rfl⟩)

/-- R171, R36: an instruction that can fault may write the fault record. -/
theorem fault_mem_mayWrite {i : Instr} {s : State} {p : FaultCause × Nat} (h : faultOf i s = some p) :
    .fault ∈ mayWrite i := by
  cases i
  case ret | call | drw | ldB | storeRegs | loadRegs | skp | sknp => simp [mayWrite]
  all_goals cases h

/-- The frame of an instruction, completing or faulting. -/
theorem exec_sameExcept {i : Instr} {s t : State} (h : exec i s = .next t) :
    SameExcept (mayWrite i) s t := by
  obtain ⟨-, rfl⟩ | ⟨c, n, hf, rfl⟩ := exec_cases h
  · exact complete_sameExcept i s
  · exact (SameExcept.refl _ s).takeFault (fault_mem_mayWrite hf) _ _ _

/-- Settles O42: an instruction that completes writes the parts its updates name, and one that faults
writes the fault record. -/
theorem eachInstructionWritesOnlyItsParts : Obligations.EachInstructionWritesOnlyItsParts :=
  fun _ _ _ h => exec_sameExcept h

/-! ### PC after a step -/

/-- The table of R171 does not speak of PC, so the fetch-side increment does not change its answer. -/
theorem faultOf_advancePc (i : Instr) (s : State) : faultOf i (advancePc s) = faultOf i s := by
  cases i <;> rfl

/-- The table of R25 takes the address `a` apart from the state. -/
theorem pcAfter_advancePc (i : Instr) (a : Nat) (s : State) :
    pcAfter i a (advancePc s) = pcAfter i a s := by
  cases i <;> rfl

/-- EX9E, EXA1 (R160, R161, R166): `v` is the code of a key that has the property `p`. -/
theorem any_keyCode_iff (v : Byte) (p : Fin 16 → Bool) :
    (keyCode v).any p = true ↔ ∃ k, p k = true ∧ k.val = v.toNat := by
  unfold keyCode
  split
  next h => exact ⟨fun hp => ⟨_, hp, rfl⟩, fun ⟨k, hp, hk⟩ => by
    obtain rfl : k = ⟨v.toNat, h⟩ := Fin.ext hk
    exact hp⟩
  next h => exact ⟨nofun, fun ⟨k, _, hk⟩ => absurd (hk ▸ k.isLt) h⟩

theorem firstKey_isSome_iff (s : State) : (firstKey s).isSome = true ↔ ∃ k, keyDown s k = true := by
  rw [Option.isSome_iff_ne_none, Ne, firstKey_none]
  simp

section
variable {s : State} {a : Nat} (inside : a ≤ 0xFFE) (hpc : s.pc.toNat = a + 2)
include inside hpc

theorem skipIf_pc_toNat {c : Bool} {P : Prop} [Decidable P] (hP : c = true ↔ P) :
    (skipIf c s).pc.toNat = if P then a + 4 else a + 2 := by
  rw [skipIf_pc]
  simp only [hP]
  split
  · bv_omega
  · exact hpc

/-- R25: an instruction that completes leaves PC where the table says. -/
theorem complete_pc {i : Instr} (hf : faultOf i s = none) :
    (complete i s).pc.toNat = pcAfter i a s := by
  have hnext (hn : .pc ∉ mayWrite i) : (complete i s).pc.toNat = a + 2 :=
    (congrArg BitVec.toNat ((complete_sameExcept i s).pc hn)).trans hpc
  cases i with
  | ret =>
    have hsp : 0 < s.sp.val := Nat.pos_of_ne_zero (by simpa [faultOf] using hf)
    obtain ⟨-, hpop⟩ := popPc_spec s ⟨s.sp.val - 1, by omega⟩ (Nat.succ_pred_eq_of_pos hsp).symm
    simp only [complete, pcAfter, hpop, hsp, dif_pos]
  | jp | call | jpV0 =>
    simp only [complete, setPc_pc, pcAfter]
    bv_omega
  | seImm | seReg => exact skipIf_pc_toNat inside hpc beq_iff_eq
  | sneImm | sneReg => exact skipIf_pc_toNat inside hpc bne_iff_ne
  | skp x => exact skipIf_pc_toNat inside hpc (any_keyCode_iff _ _)
  | sknp x =>
    refine skipIf_pc_toNat inside hpc ((any_keyCode_iff _ _).trans ?_)
    simp only [Bool.not_eq_true']
  | ldVxK x =>
    simp only [pcAfter, ← firstKey_isSome_iff, complete]
    cases firstKey s with
    | some k => exact hpc
    | none =>
      simp only [rewindPc_pc, Option.isSome_none, Bool.false_eq_true, if_false]
      bv_omega
  | _ => exact hnext (by simp [mayWrite])

end

/-- Settles O40: the four ways of a step (R90), with `complete_pc` for an instruction that completes. -/
theorem pcAfterEveryStep : Obligations.PcAfterEveryStep := by
  intro s running
  simp only [step, running, fetchOutside, lastFetch_eq, decide_eq_true_eq]
  split
  next => exact ⟨_, rfl, rfl⟩
  next inside =>
    have hpc : (advancePc s).pc.toNat = s.pc.toNat + 2 := by
      simp only [advancePc_pc]
      bv_omega
    have hfetch : readByte s s.pc.toNat ++ readByte s (s.pc.toNat + 1) = fetchWord s := rfl
    rw [hfetch]
    cases decode (fetchWord s) with
    | none => exact ⟨_, rfl, hpc⟩
    | some i =>
      simp only [← faultOf_advancePc i s]
      cases hf : faultOf i (advancePc s) with
      | none =>
        rw [if_pos rfl, ← pcAfter_advancePc]
        exact ⟨_, exec_eq_complete hf, complete_pc (Nat.not_lt.1 inside) hpc hf⟩
      | some p => exact ⟨_, exec_of_faultOf_some hf, hpc⟩

/-! ### What every step keeps -/

/-- What the fetch increment, a fault taken and every instruction keep, every step keeps. -/
theorem step_keeps {P : State → Prop} (advance : ∀ s, P s → P (advancePc s))
    (fault : ∀ c i a s, P s → P (takeFault c i a s))
    (execute : ∀ i s t, P s → exec i s = .next t → P t)
    {s t : State} (hs : P s) (h : step s = .next t) : P t := by
  unfold step at h
  split at h
  next => cases h; exact hs
  next =>
    split at h
    next => cases h; exact fault _ _ _ s hs
    next =>
      split at h
      next i _ => exact execute i _ t (advance s hs) h
      next => cases h; exact advance s hs

/-! ### What an instruction depends on -/

/-- The parts of the state that no instruction reads, or only the few the spec names: the input latch (R33),
`shift_quirk` (R37), IPS (R38), ST (R34), `redraw` (R35), the status with the fault record (R36). -/
inductive SidePart where
  | latch
  | shiftQuirk
  | ips
  | st
  | redraw
  | record
  deriving DecidableEq

/-- `s` and `s'` agree on the registers of `K`, on the side parts of `q`, and on every other part. -/
structure AgreeOn (K : Nibble → Prop) (q : SidePart → Bool) (s s' : State) : Prop where
  regs : ∀ r, K r → readV s r = readV s' r
  I : s.I = s'.I
  pc : s.pc = s'.pc
  sp : s.sp = s'.sp
  stack : s.stack = s'.stack
  mem : s.mem = s'.mem
  fb : s.fb = s'.fb
  dt : s.dt = s'.dt
  draws : s.draws = s'.draws
  font : s.config.font = s'.config.font
  latch : q .latch = true → s.key = s'.key
  shiftQuirk : q .shiftQuirk = true → s.config.shiftQuirk = s'.config.shiftQuirk
  ips : q .ips = true → s.config.ips = s'.config.ips
  st : q .st = true → s.st = s'.st
  redraw : q .redraw = true → s.redraw = s'.redraw
  status : q .record = true → s.status = s'.status
  faultCause : q .record = true → s.faultCause = s'.faultCause
  faultInfo : q .record = true → s.faultInfo = s'.faultInfo
  faultIpc : q .record = true → s.faultIpc = s'.faultIpc

/-- `s` and `s'` agree on every part but the side parts of `hidden`. -/
abbrev AgreeBut (hidden : List SidePart) (s s' : State) : Prop :=
  AgreeOn (fun _ => True) (fun p => !hidden.contains p) s s'

theorem AgreeBut.refl (hidden : List SidePart) (s : State) : AgreeBut hidden s s := by
  constructor <;> intros <;> rfl

theorem v_ext {s s' : State} (h : ∀ r, readV s r = readV s' r) : s.v = s'.v := by
  refine Vector.ext fun k hk => ?_
  have hr : (BitVec.ofNat 4 k).toNat = k := Nat.mod_eq_of_lt hk
  simpa only [readV, hr] using h (BitVec.ofNat 4 k)

namespace AgreeOn

section
variable {K K' : Nibble → Prop} {q : SidePart → Bool} {s s' : State} (h : AgreeOn K q s s')
include h

theorem mono (hK : ∀ r, K' r → K r) : AgreeOn K' q s s' :=
  { h with regs := fun r hr => h.regs r (hK r hr) }

/-! The same update on both sides keeps the agreement, and a register written agrees afterwards. -/

theorem writeV (x : Nibble) {b b' : Byte} (hb : b = b') :
    AgreeOn (fun r => K r ∨ r = x) q (writeV s x b) (writeV s' x b') :=
  { h with
    regs := fun r hr => by
      rw [readV_writeV, readV_writeV, hb]
      split
      case isTrue => rfl
      case isFalse hx => exact h.regs r (hr.resolve_right hx) }

theorem writeResultThenFlag (x : Nibble) {b b' : Byte} {c c' : Bool} (hb : b = b') (hc : c = c') :
    AgreeOn (fun r => K r ∨ r = x ∨ r = vf) q (writeResultThenFlag s x b c)
      (writeResultThenFlag s' x b' c') :=
  ((h.writeV x hb).writeV vf (congrArg flagByte hc)).mono fun _ => or_assoc.2

theorem writeRegs {k : Nat} {bs : List Byte} (hlen : k + bs.length ≤ 16) :
    AgreeOn (fun r => K r ∨ k ≤ r.toNat ∧ r.toNat < k + bs.length) q (writeRegs s k bs)
      (writeRegs s' k bs) := by
  induction bs generalizing s s' k K with
  | nil => exact h.mono fun r hr => hr.resolve_right fun ⟨hk, hr⟩ => by simp at hr; omega
  | cons b bs ih =>
    rw [List.length_cons] at hlen ⊢
    refine (ih (h.writeV (BitVec.ofNat 4 k) (rfl : b = b)) (by omega)).mono fun r hr => ?_
    rcases hr with hr | ⟨hk, hr⟩
    · exact .inl (.inl hr)
    · by_cases hrk : r.toNat = k
      · exact .inl (.inr (BitVec.eq_of_toNat_eq (by simp; omega)))
      · exact .inr (by omega)

theorem setPc {w w' : Word} (hw : w = w') : AgreeOn K q (setPc s w) (setPc s' w') :=
  { h with pc := hw }

theorem skipIf {c c' : Bool} (hc : c = c') : AgreeOn K q (skipIf c s) (skipIf c' s') := by
  subst hc
  cases c with
  | false => exact h
  | true => exact h.setPc (congrArg (· + 2) h.pc)

theorem setI {w w' : Word} (hw : w = w') : AgreeOn K q (setI s w) (setI s' w') :=
  { h with I := hw }

theorem stepI (x : Nibble) : AgreeOn K q (stepI s x) (stepI s' x) :=
  h.setI (congrArg (· + zext16 x + 1) h.I)

theorem setDt {b b' : Byte} (hb : b = b') : AgreeOn K q (setDt s b) (setDt s' b') :=
  { h with dt := hb }

theorem setSt {b b' : Byte} (hb : b = b') : AgreeOn K q (setSt s b) (setSt s' b') :=
  { h with st := fun _ => hb }

theorem countDraw : AgreeOn K q (countDraw s) (countDraw s') :=
  { h with draws := congrArg (· + 1) h.draws }

theorem showFb {fb fb' : Framebuffer} (hfb : fb = fb') : AgreeOn K q (showFb s fb) (showFb s' fb') :=
  { h with fb := hfb, redraw := fun _ => rfl }

theorem writeByte (a : Nat) (b : Byte) : AgreeOn K q (writeByte s a b) (writeByte s' a b) :=
  { h with mem := by rw [writeByte_mem, writeByte_mem, h.font, h.mem] }

theorem storeBytes (a : Nat) (bs : List Byte) :
    AgreeOn K q (storeBytes s a bs) (storeBytes s' a bs) := by
  induction bs generalizing s s' a with
  | nil => exact h
  | cons b bs ih => exact ih (h.writeByte a b) (a + 1)

theorem push {w w' : Word} (hw : w = w') : AgreeOn K q (push s w) (push s' w') := by
  subst hw
  unfold Machine.push
  simp only [h.sp]
  split
  · exact { h with stack := by simp only [h.stack], sp := rfl }
  · exact h

theorem popPc : AgreeOn K q (popPc s) (popPc s') := by
  unfold Machine.popPc
  simp only [h.sp]
  split
  · exact { h with sp := rfl, pc := by simp only [h.stack] }
  · exact h

theorem takeFault (c : FaultCause) (i : Word) {a a' : Word} (ha : a = a') :
    AgreeOn K q (takeFault c i a s) (takeFault c i a' s') :=
  { h with
    status := fun _ => rfl, faultCause := fun _ => rfl
    faultInfo := fun _ => rfl, faultIpc := fun _ => ha }

/-! What the operations read. -/

theorem blockAtI (n : Nat) : blockAtI s n = blockAtI s' n := by
  simp only [Machine.blockAtI, readBytes, readByte, h.I, h.mem, h.font]

theorem regsUpTo {x : Nibble} (hx : ∀ r : Nibble, r.toNat ≤ x.toNat → K r) :
    regsUpTo s x = regsUpTo s' x :=
  List.map_congr_left fun k hk => h.regs _ (hx _ (by
    have := List.mem_range.1 hk
    rw [BitVec.toNat_ofNat]
    exact (Nat.mod_le _ _).trans (by omega)))

theorem keyDown (hq : q .latch = true) : keyDown s = keyDown s' := by
  funext k
  simp only [Machine.keyDown, h.latch hq]

theorem faultOf {i : Instr} (hregs : ∀ r, readsReg i s r → K r) : faultOf i s = faultOf i s' := by
  cases i with
  | skp x | sknp x =>
    have hx : readV s x = readV s' x := h.regs x (hregs x rfl)
    simp only [Machine.faultOf, hx]
  | ret | call | drw | ldB | storeRegs | loadRegs => simp only [Machine.faultOf, h.sp, h.I]
  | _ => rfl

/-- R37, R199: `shift_quirk` chooses the register a shift works on, unless X = Y. -/
theorem shiftOperand {x y : Nibble} (hquirk : q .shiftQuirk = true ∨ x = y)
    (hregs : ∀ r, (if s.config.shiftQuirk then r = x else r = y) → K r) :
    shiftOperand s x y = shiftOperand s' x y := by
  unfold Machine.shiftOperand
  rcases hquirk with hq | rfl
  · rw [← h.shiftQuirk hq]
    split
    next hs => exact h.regs x (hregs x (by rw [if_pos hs]))
    next hs => exact h.regs y (hregs y (by rw [if_neg hs]))
  · simp only [ite_self] at hregs ⊢
    exact h.regs x (hregs x rfl)

/-- An instruction that completes keeps an agreement on what it reads, and adds the registers it writes. -/
theorem complete {i : Instr} (hregs : ∀ r, readsReg i s r → K r)
    (hlatch : q .latch = true ∨ ∀ x, i ≠ .skp x ∧ i ≠ .sknp x ∧ i ≠ .ldVxK x)
    (hquirk : q .shiftQuirk = true ∨ ∀ x y, x ≠ y → i ≠ .shr x y ∧ i ≠ .shl x y) :
    AgreeOn (fun r => K r ∨ writesReg i s r) q (complete i s) (complete i s') := by
  have reads {r : Nibble} (hr : readsReg i s r) : readV s r = readV s' r := h.regs r (hregs r hr)
  have ofUnwritten {u u' : State} (hu : AgreeOn K q u u') (hw : ∀ r, ¬ writesReg i s r) :
      AgreeOn (fun r => K r ∨ writesReg i s r) q u u' := hu.mono fun r hr => hr.resolve_right (hw r)
  have ofWritten {L : Nibble → Prop} {u u' : State} (hu : AgreeOn (fun r => K r ∨ L r) q u u')
      (hw : ∀ r, writesReg i s r → L r) :
      AgreeOn (fun r => K r ∨ writesReg i s r) q u u' := hu.mono fun r hr => hr.imp_right (hw r)
  cases i with
  | cls => exact ofUnwritten (h.showFb rfl) fun _ => And.right
  | ret => exact ofUnwritten h.popPc fun _ => And.right
  | jp => exact ofUnwritten (h.setPc rfl) fun _ => And.right
  | call => exact ofUnwritten ((h.push h.pc).setPc rfl) fun _ => And.right
  | jpV0 => exact ofUnwritten (h.setPc (by rw [reads rfl])) fun _ => And.right
  | seImm | sneImm => exact ofUnwritten (h.skipIf (by rw [reads rfl])) fun _ => And.right
  | seReg | sneReg =>
    exact ofUnwritten (h.skipIf (by rw [reads (.inl rfl), reads (.inr rfl)])) fun _ => And.right
  | skp | sknp =>
    have hkey := h.keyDown (hlatch.resolve_right fun hne => by simp at hne)
    exact ofUnwritten (h.skipIf (by rw [reads rfl, hkey])) fun _ => And.right
  | ldImm => exact ofWritten (h.writeV _ rfl) fun _ => And.right
  | addImm | ldReg => exact ofWritten (h.writeV _ (by rw [reads rfl])) fun _ => And.right
  | orReg | andReg | xorReg =>
    exact ofWritten (h.writeV _ (by rw [reads (.inl rfl), reads (.inr rfl)])) fun _ => And.right
  | addReg | subReg | subnReg =>
    have hx := reads (.inl rfl)
    have hy := reads (.inr rfl)
    exact ofWritten (h.writeResultThenFlag _ (by rw [hx, hy]) (by rw [hx, hy])) fun _ => And.right
  | shr x y | shl x y =>
    have hquirk : q .shiftQuirk = true ∨ x = y :=
      hquirk.imp_right fun hne => by_contra fun hxy => by simpa using hne x y hxy
    have hop := h.shiftOperand hquirk hregs
    exact ofWritten (h.writeResultThenFlag _ (by rw [hop]) (by rw [hop])) fun _ => And.right
  | rnd =>
    exact ofWritten (h.writeV _ (by rw [drawnByte, drawnByte, h.draws])).countDraw fun _ => And.right
  | ldVxDt => exact ofWritten (h.writeV _ h.dt) fun _ => And.right
  | ldVxK x =>
    have hkey := h.keyDown (hlatch.resolve_right fun hne => by simp at hne)
    have hfirst : firstKey s = firstKey s' := by rw [firstKey, firstKey, hkey]
    simp only [Machine.complete, ← hfirst]
    cases hk : firstKey s with
    | some k => exact ofWritten (h.writeV x rfl) fun _ hw => hw.2.1
    | none =>
      refine ofUnwritten (h.setPc (congrArg (· - 2) h.pc)) fun _ hw => ?_
      simpa [hk] using (firstKey_isSome_iff s).2 hw.2.2
  | ldDtVx => exact ofUnwritten (h.setDt (reads rfl)) fun _ => And.right
  | ldStVx => exact ofUnwritten (h.setSt (reads rfl)) fun _ => And.right
  | ldI => exact ofUnwritten (h.setI rfl) fun _ => And.right
  | addI => exact ofUnwritten (h.setI (by rw [h.I, reads rfl])) fun _ => And.right
  | ldF => exact ofUnwritten (h.setI (by rw [reads rfl])) fun _ => And.right
  | ldB =>
    simp only [Machine.complete, ← h.I, ← reads rfl]
    exact ofUnwritten (h.storeBytes _ _) fun _ => And.right
  | storeRegs x =>
    simp only [Machine.complete, ← h.I, ← h.regsUpTo hregs]
    exact ofUnwritten ((h.storeBytes _ _).stepI x) fun _ => And.right
  | loadRegs x =>
    simp only [Machine.complete, ← h.blockAtI]
    have hwritten (r : Nibble) (hr : r.toNat ≤ x.toNat) :
        0 ≤ r.toNat ∧ r.toNat < 0 + (Machine.blockAtI s (x.toNat + 1)).length := by
      rw [blockAtI_length]
      omega
    have hlen : 0 + (Machine.blockAtI s (x.toNat + 1)).length ≤ 16 := by
      rw [blockAtI_length]
      omega
    exact ofWritten ((h.writeRegs hlen).stepI x) fun r hw => hwritten r hw.2
  | drw x y n =>
    have hx := reads (.inl rfl)
    have hy := reads (.inr rfl)
    simp only [Machine.complete, ← hx, ← hy, ← h.fb, ← h.blockAtI]
    exact ofWritten ((h.writeV vf rfl).showFb rfl) fun _ => And.right

end

end AgreeOn

/-- States that agree on every part are equal. -/
theorem AgreeBut.eq {s s' : State} (h : AgreeBut [] s s') : s = s' := by
  have hv : s.v = s'.v := v_ext fun r => h.regs r trivial
  have hconfig : s.config = s'.config := by
    rcases hs : s.config with ⟨_, _, _⟩
    rcases hs' : s'.config with ⟨_, _, _⟩
    have hq := h.shiftQuirk rfl
    have hi := h.ips rfl
    have hf := h.font
    simp only [hs, hs'] at hq hi hf
    rw [hq, hi, hf]
  cases s
  cases s'
  simp only [State.mk.injEq]
  exact ⟨hv, h.I, h.pc, h.sp, h.stack, h.mem, h.fb, h.latch rfl, h.dt, h.st rfl, h.redraw rfl,
    h.status rfl, h.faultCause rfl, h.faultInfo rfl, h.faultIpc rfl, hconfig, h.draws⟩

/-- What an instruction does depends only on the registers that R22 lists as read, on the latch for the key
instructions, on `shift_quirk` for the shifts of two registers, and on no other side part. -/
theorem exec_agreeOn {K : Nibble → Prop} {q : SidePart → Bool} {i : Instr} {s s' t : State}
    (h : AgreeOn K q s s') (hregs : ∀ r, readsReg i s r → K r)
    (hlatch : q .latch = true ∨ ∀ x, i ≠ .skp x ∧ i ≠ .sknp x ∧ i ≠ .ldVxK x)
    (hquirk : q .shiftQuirk = true ∨ ∀ x y, x ≠ y → i ≠ .shr x y ∧ i ≠ .shl x y)
    (ht : exec i s = .next t) :
    ∃ u, exec i s' = .next u ∧ AgreeOn (fun r => K r ∨ writesReg i s r) q t u := by
  have hfault := h.faultOf hregs
  obtain ⟨hf, rfl⟩ | ⟨c, n, hf, rfl⟩ := exec_cases ht
  · exact ⟨_, exec_eq_complete (hfault ▸ hf), h.complete hregs hlatch hquirk⟩
  · have hunwritten (r : Nibble) (hw : writesReg i s r) : False := by simp [hw.1] at hf
    exact ⟨_, exec_of_faultOf_some (hfault ▸ hf),
      (h.takeFault c _ (congrArg (· - 2) h.pc)).mono fun r hr => hr.resolve_right (hunwritten r)⟩

/-- `exec_agreeOn` for states that agree on every register. -/
theorem exec_agreeBut {hidden : List SidePart} {i : Instr} {s s' t : State} (h : AgreeBut hidden s s')
    (hlatch : (!hidden.contains .latch) = true ∨ ∀ x, i ≠ .skp x ∧ i ≠ .sknp x ∧ i ≠ .ldVxK x)
    (hquirk : (!hidden.contains .shiftQuirk) = true ∨ ∀ x y, x ≠ y → i ≠ .shr x y ∧ i ≠ .shl x y)
    (ht : exec i s = .next t) : ∃ u, exec i s' = .next u ∧ AgreeBut hidden t u := by
  obtain ⟨u, hu, h⟩ := exec_agreeOn h (fun _ _ => trivial) hlatch hquirk ht
  exact ⟨u, hu, h.mono fun _ _ => .inl trivial⟩

/-! ### The registers (R22) -/

/-- The registers R22 lists as written are the register parts of `mayWrite`, but for FX0A, which writes VX
only when a key is pressed. -/
theorem writesReg_of_mem_mayWrite {i : Instr} {s : State} {r : Nibble} (hf : faultOf i s = none)
    (hi : ∀ x, i ≠ .ldVxK x) (hr : .reg r ∈ mayWrite i) : writesReg i s r := by
  refine ⟨hf, ?_⟩
  cases i with
  | ldVxK x => exact absurd rfl (hi x)
  | loadRegs x =>
    obtain ⟨k, hk, rfl⟩ : ∃ k < x.toNat + 1, BitVec.ofNat 4 k = r := by simpa [mayWrite] using hr
    exact (Nat.mod_le _ _).trans (Nat.le_of_lt_succ hk)
  | ldImm | addImm | ldReg | orReg | andReg | xorReg | addReg | subReg | shr | subnReg | shl | rnd | drw
  | ldVxDt => simpa [mayWrite] using hr
  | _ => simp [mayWrite] at hr

/-- An instruction writes no register but those R22 lists. -/
theorem readV_of_not_writesReg {i : Instr} {s t : State} {r : Nibble} (ht : exec i s = .next t)
    (hr : ¬ writesReg i s r) : readV t r = readV s r := by
  obtain ⟨hf, rfl⟩ | ⟨c, n, hf, rfl⟩ := exec_cases ht
  · cases i
    case ldVxK x =>
      simp only [complete]
      cases hk : firstKey s with
      | none => rfl
      | some k =>
        have hpressed : ∃ k, keyDown s k = true := (firstKey_isSome_iff s).1 (by simp [hk])
        exact readV_writeV_other s _ fun hx => hr ⟨hf, hx, hpressed⟩
    all_goals
      exact (complete_sameExcept _ s).regs r fun hm => hr (writesReg_of_mem_mayWrite hf nofun hm)
  · rfl

/-- Settles O41: `readV_of_not_writesReg` for the writes, `exec_agreeOn` for the reads. -/
theorem registerReadsAndWritesAreTheTable : Obligations.RegisterReadsAndWritesAreTheTable := by
  refine fun i s t ht => ⟨fun r hr => readV_of_not_writesReg ht hr, fun w hw => ?_⟩
  have hs : AgreeOn (readsReg i s) (fun _ => true) s { s with v := w } :=
    { AgreeBut.refl [] s with regs := fun r hr => (hw r hr).symm }
  obtain ⟨u, hu, h⟩ := exec_agreeOn hs (fun _ => id) (.inl rfl) (.inl rfl) ht
  have hrest : AgreeBut [] t { u with v := t.v } :=
    { h with regs := fun _ _ => rfl }
  exact ⟨u, hu, hrest.eq.symm, fun r hr => (h.regs r (.inr hr)).symm⟩

/-! ### The side parts -/

/-- `visible` sets redraw, ST, the status, the fault record and IPS to one value, and nothing else. -/
theorem visible_eq_iff {s s' : State} :
    visible s = visible s' ↔ AgreeBut [.redraw, .st, .record, .ips] s s' := by
  constructor
  · intro h
    have hv : AgreeBut [] (visible s) (visible s') := h ▸ AgreeBut.refl [] (visible s)
    exact { hv with
      ips := nofun, st := nofun, redraw := nofun, status := nofun, faultCause := nofun
      faultInfo := nofun, faultIpc := nofun }
  · intro h
    have hv : AgreeBut [] (visible s) (visible s') := { h with
      ips := fun _ => rfl, st := fun _ => rfl, redraw := fun _ => rfl, status := fun _ => rfl
      faultCause := fun _ => rfl, faultInfo := fun _ => rfl, faultIpc := fun _ => rfl }
    exact hv.eq

/-- Settles O43: `exec_agreeBut` for the side parts that `visible` hides. -/
theorem noInstructionReadsHostSideState : Obligations.NoInstructionReadsHostSideState := by
  intro i s s' h
  obtain ⟨t, ht⟩ := exists_exec_eq_next i s
  obtain ⟨t', ht', h⟩ := exec_agreeBut (visible_eq_iff.1 h) (.inl rfl) (.inl rfl) ht
  exact ⟨t, t', ht, ht', visible_eq_iff.2 h⟩

theorem reconfigured_agreeBut (b : Bool) (n : Nat) (s : State) :
    AgreeBut [.shiftQuirk, .ips] s (reconfigured b n s) :=
  { AgreeBut.refl [.shiftQuirk, .ips] s with shiftQuirk := nofun, ips := nofun }

/-- R37, R38: no instruction depends on IPS, and none but a shift of two registers on `shift_quirk`. -/
theorem exec_reconfigured {i : Instr} {s t : State} {b : Bool} (n : Nat) (ht : exec i s = .next t)
    (hb : b = s.config.shiftQuirk ∨ ∀ x y, x ≠ y → i ≠ .shr x y ∧ i ≠ .shl x y) :
    exec i (reconfigured b n s) = .next (reconfigured b n t) := by
  have hs := reconfigured_agreeBut b n s
  obtain ⟨u, hu, h⟩ : ∃ u, exec i (reconfigured b n s) = .next u ∧ AgreeBut [.shiftQuirk, .ips] t u := by
    rcases hb with rfl | hi
    · have hs : AgreeBut [.ips] s (reconfigured s.config.shiftQuirk n s) :=
        { hs with shiftQuirk := fun _ => rfl }
      obtain ⟨u, hu, h⟩ := exec_agreeBut hs (.inl rfl) (.inl rfl) ht
      exact ⟨u, hu, { h with shiftQuirk := nofun }⟩
    · exact exec_agreeBut hs (.inl rfl) (.inr hi) ht
  have hconfig : u.config = (reconfigured b n s).config := (exec_sameExcept hu).config
  have htu : AgreeBut [] (reconfigured b n t) u :=
    { h with
      shiftQuirk := fun _ => by rw [hconfig]; rfl
      ips := fun _ => by rw [hconfig]; rfl }
  rw [hu, htu.eq]

/-- Settles O44: `exec_reconfigured`, for a new `shift_quirk` and for the one there was. -/
theorem configurationIsReadOnlyWhereTheSpecSays :
    Obligations.ConfigurationIsReadOnlyWhereTheSpecSays :=
  fun _ _ _ _ n ht => ⟨fun hi => exec_reconfigured n ht (.inr hi), exec_reconfigured n ht (.inl rfl)⟩

/-- R33: an instruction that is no key instruction does the same under any latch. -/
theorem exec_withKey {i : Instr} {s t : State} (w : Vector Bool 16) (ht : exec i s = .next t)
    (hi : ∀ x, i ≠ .skp x ∧ i ≠ .sknp x ∧ i ≠ .ldVxK x) :
    exec i { s with key := w } = .next { t with key := w } := by
  have hs : AgreeBut [.latch] s { s with key := w } :=
    { AgreeBut.refl [.latch] s with latch := nofun }
  obtain ⟨u, hu, h⟩ := exec_agreeBut hs (.inr hi) (.inl rfl) ht
  have hkey : u.key = w := (exec_sameExcept hu).key
  have htu : AgreeBut [] { t with key := w } u :=
    { h with latch := fun _ => hkey.symm }
  rw [hu, htu.eq]

theorem keyDown_setKey (k : Fin 16) (b : Bool) (s : State) (j : Fin 16) :
    keyDown (setKey k b s) j = if j = k then b else keyDown s j := by
  unfold keyDown setKey
  rcases eq_or_ne j k with rfl | h
  · simp
  · simp [h, Fin.val_ne_of_ne h.symm]

/-- Settles O45: the frame of every instruction keeps the latch, and `exec_agreeOn` needs it for the key
instructions only. -/
theorem inputLatchIsReadByTheKeyInstructionsOnly :
    Obligations.InputLatchIsReadByTheKeyInstructionsOnly := by
  refine ⟨fun s k b => ⟨setKey k b s, rfl, ?_, fun j hj => ?_, rfl⟩, fun s t h => ?_, fun s => ?_,
    fun i s t w ht hi => exec_withKey w ht hi⟩
  · rw [keyDown_setKey, if_pos rfl]
  · rw [keyDown_setKey, if_neg hj]
  · exact step_keeps (P := fun u => u.key = s.key) (fun _ => id) (fun _ _ _ _ => id)
      (fun _ _ _ hu ht => (exec_sameExcept ht).key.trans hu) rfl h
  · unfold tick
    split <;> rfl

/-! ### redraw (R35) -/

/-- R35: no instruction clears `redraw`, since 00E0 and DXYN, which write it, set it. -/
theorem exec_keeps_redraw {i : Instr} {s t : State} (hs : s.redraw = true) (ht : exec i s = .next t) :
    t.redraw = true := by
  obtain ⟨-, rfl⟩ | ⟨c, n, -, rfl⟩ := exec_cases ht
  · cases i with
    | cls | drw => rfl
    | _ => exact ((complete_sameExcept _ s).redraw (by simp [mayWrite])).trans hs
  · exact hs

/-- R35: no instruction depends on `redraw`. -/
theorem exec_withRedraw {i : Instr} {s t : State} (b : Bool) (ht : exec i s = .next t) :
    ∃ u, exec i { s with redraw := b } = .next u ∧ { u with redraw := t.redraw } = t := by
  have hs : AgreeBut [.redraw] s { s with redraw := b } :=
    { AgreeBut.refl [.redraw] s with redraw := nofun }
  obtain ⟨u, hu, h⟩ := exec_agreeBut hs (.inl rfl) (.inl rfl) ht
  have htu : AgreeBut [] t { u with redraw := t.redraw } :=
    { h with redraw := fun _ => rfl }
  exact ⟨u, hu, htu.eq.symm⟩

/-- Settles O46: the two drawing instructions set `redraw`, no instruction clears it (`exec_keeps_redraw`),
and none reads it (`exec_withRedraw`). -/
theorem redrawIsSetByDrawingAndClearedByTheHost :
    Obligations.RedrawIsSetByDrawingAndClearedByTheHost := by
  refine ⟨fun s t h => ?_, fun x y n s t hf h => ?_, fun s t h hs => ?_, fun s => ?_, fun _ => rfl,
    fun i s t b ht => exec_withRedraw b ht⟩
  · cases (exec_eq_complete (i := .cls) rfl).symm.trans h
    rfl
  · cases (exec_eq_complete hf).symm.trans h
    rfl
  · exact step_keeps (fun _ => id) (fun _ _ _ _ => id) (fun _ _ _ => exec_keeps_redraw) hs h
  · unfold tick
    split <;> rfl

end Sys2Proof.Machine
end

section
/-! PROOFS. Memory (20_memory.md). A canonical list holds exactly the bytes that differ from what their
address reads as unlisted (`Memory.mem_iff_of_wf`), so that it is determined by its reads (O59). A block
that FX55 stores is read back by FX65 (O31), and a word stored at PC by the next fetch (O60). -/

namespace Sys2Proof.Machine

/-- Settles O47: a step stores through `writeByte` only, which keeps the canonical form
(`step_keeps_memoryCanonical`). -/
theorem stepKeepsMemoryCanonical : Obligations.StepKeepsMemoryCanonical :=
  fun _ _ hm h => step_keeps_memoryCanonical hm h

/-! ### A canonical memory is determined by its reads (R50, R58) -/

section
variable {font : Vector Byte 80} {m : Memory}

/-- In a memory whose addresses rise, an entry is what its address reads as. -/
theorem Memory.read_of_mem {a : Nat} {v : Byte} (hs : m.Pairwise (fun p q => p.1 < q.1))
    (h : (a, v) ∈ m) : Memory.read font m a = v := by
  induction m with
  | nil => cases h
  | cons c m ih =>
    obtain ⟨hc, hs⟩ := List.pairwise_cons.1 hs
    rcases List.mem_cons.1 h with rfl | h
    · exact if_pos rfl
    · exact (if_neg (hc _ h).ne').trans (ih hs h)

/-- An address that does not read as unlisted has an entry. -/
theorem Memory.mem_of_read_ne {a : Nat} (h : Memory.read font m a ≠ Memory.unlisted font a) :
    (a, Memory.read font m a) ∈ m := by
  induction m with
  | nil => exact absurd rfl h
  | cons c m ih =>
    rw [Memory.read] at h ⊢
    split
    next hac => exact hac ▸ List.mem_cons_self
    next hac => exact List.mem_cons_of_mem c (ih (by rwa [if_neg hac] at h))

/-- The entries of a canonical memory are the bytes that differ from what their address reads as
unlisted. -/
theorem Memory.mem_iff_of_wf (hm : Memory.wf font m) (a : Nat) (v : Byte) :
    (a, v) ∈ m ↔ a < 4096 ∧ Memory.read font m a = v ∧ v ≠ Memory.unlisted font a := by
  obtain ⟨hs, hentry⟩ := hm
  constructor
  · intro h
    obtain ⟨ha, hv⟩ := hentry _ h
    exact ⟨ha, Memory.read_of_mem hs h, hv⟩
  · rintro ⟨-, rfl, hv⟩
    exact Memory.mem_of_read_ne hv

end

/-- Settles O59: by `Memory.mem_iff_of_wf` the two lists have the same entries, and both are sorted. -/
theorem memoriesThatReadAlikeAreEqual : Obligations.MemoriesThatReadAlikeAreEqual := by
  intro font m m' hm hm' hread
  have : Std.Irrefl fun p q : Host.Cell => p.1 < q.1 := ⟨fun p => Nat.lt_irrefl p.1⟩
  have : Std.Antisymm fun p q : Host.Cell => p.1 < q.1 :=
    ⟨fun _ _ hpq hqp => absurd hpq (Nat.lt_asymm hqp)⟩
  refine hm.1.eq_of_mem_iff hm'.1 fun ⟨a, v⟩ => ?_
  rw [Memory.mem_iff_of_wf hm, Memory.mem_iff_of_wf hm']
  exact and_congr_right fun ha => by rw [hread a ha]

/-! ### FX65 reads what FX55 stored (R144, R145) -/

section
variable {s : State} {x r : Nibble}

/-- R144: after FX55 the byte at I + r is the register r. -/
theorem readByte_complete_storeRegs (hm : s.memoryCanonical) (inside : s.I.toNat + x.toNat < 4096)
    (hr : r.toNat ≤ x.toNat) :
    readByte (complete (.storeRegs x) s) (s.I.toNat + r.toNat) = readV s r := by
  have hlen : r.toNat < (regsUpTo s x).length := by rw [regsUpTo_length]; omega
  have hblock : s.I.toNat + (regsUpTo s x).length ≤ Config.memSize := by
    rw [regsUpTo_length, memSize_eq]; omega
  calc readByte (complete (.storeRegs x) s) (s.I.toNat + r.toNat)
      = readByte (storeBytes s s.I.toNat (regsUpTo s x)) (s.I.toNat + r.toNat) := rfl
    _ = (regsUpTo s x)[r.toNat] := by
      rw [readByte_storeBytes _ _ _ _ hm hblock, if_pos (Nat.le_add_right _ _), Nat.add_sub_cancel_left,
        List.getD_eq_getElem _ _ hlen]
    _ = readV s r := regsUpTo_getElem s x r hr

/-- R145: after FX65 the register r is the byte at I + r. -/
theorem readV_complete_loadRegs (hr : r.toNat ≤ x.toNat) :
    readV (complete (.loadRegs x) s) r = readByte s (s.I.toNat + r.toNat) := by
  have hlen : r.toNat < (blockAtI s (x.toNat + 1)).length := by rw [blockAtI_length]; omega
  have hregs : 0 + (blockAtI s (x.toNat + 1)).length ≤ 16 := by rw [blockAtI_length]; omega
  calc readV (complete (.loadRegs x) s) r
      = readV (writeRegs s 0 (blockAtI s (x.toNat + 1))) r := rfl
    _ = (blockAtI s (x.toNat + 1))[r.toNat] := by
      rw [readV_writeRegs _ _ _ _ hregs, if_pos (Nat.zero_le _), Nat.sub_zero,
        List.getD_eq_getElem _ _ hlen]
    _ = readByte s (s.I.toNat + r.toNat) := readBytes_getElem s _ _ _ hlen

end

/-- Settles O31: FX65 reads the bytes that FX55 stored, address by address. -/
theorem loadBringsBackWhatStoreSaved : Obligations.LoadBringsBackWhatStoreSaved := by
  intro x s t u hm inside hstore hmem hI
  have hs : faultOf (.storeRegs x) s = none := if_neg (Nat.not_le.2 inside)
  have hu : faultOf (.loadRegs x) u = none := if_neg (Nat.not_le.2 (hI ▸ inside))
  cases (exec_eq_complete hs).symm.trans hstore
  refine ⟨_, exec_eq_complete hu, fun r hr => ?_⟩
  rw [readV_complete_loadRegs hr, hmem, hI, readByte_complete_storeRegs hm inside hr]

/-! ### A word stored at PC is the word fetched next (R62, R91) -/

/-- R90, R91: a RUNNING machine with PC inside memory runs what the word at PC decodes to. -/
theorem step_eq_exec {s : State} {i : Instr} (running : s.status = .running)
    (inside : s.pc.toNat ≤ 0xFFE) (hi : decode (fetchWord s) = some i) :
    step s = exec i (advancePc s) := by
  have hfetch : fetchOutside s = false := decide_eq_false (Nat.not_lt.2 inside)
  simp [step, running, hfetch, hi]

/-- R53: two bytes stored at PC are fetched as one word, the first as its high byte. -/
theorem fetchWord_storeBytes_pc {s : State} (hm : s.memoryCanonical) (inside : s.pc.toNat ≤ 0xFFE)
    (hi lo : Byte) : fetchWord (storeBytes s s.pc.toNat [hi, lo]) = wordOf hi lo := by
  have hblock : s.pc.toNat + [hi, lo].length ≤ Config.memSize := by
    rw [memSize_eq, List.length_cons, List.length_singleton]; omega
  simp [fetchWord, readByte_storeBytes _ _ _ _ hm hblock]

theorem tableWord_toNat (op : Word) : tableWord 16 op.toNat = op := by
  rw [tableWord, Nat.mod_eq_of_lt op.isLt, BitVec.ofNat_toNat, BitVec.setWidth_eq]

/-- log 12: `placeWord` stores the word's bytes at PC in a state that can fetch. -/
theorem exists_placeWord_eq_storeBytes {s : State} (hm : s.memoryCanonical) (op : Word) :
    ∃ p : State, placeWord s op = storeBytes p p.pc.toNat (wordBytes op) ∧ p.memoryCanonical ∧
      p.status = .running ∧ p.pc.toNat ≤ 0xFFE := by
  refine ⟨_, rfl, hm, rfl, ?_⟩
  split
  next => exact (by decide : 0x200 ≤ 0xFFE)
  next inside => exact Nat.not_lt.1 inside

/-- Settles O60: FX55 and `withFetchWord` both store the two bytes of a word at PC, where
`fetchWord_storeBytes_pc` says the next step fetches them. -/
theorem storedBytesAreFetchedByTheNextStep : Obligations.StoredBytesAreFetchedByTheNextStep := by
  refine ⟨fun s t i hm running hI inside hstore hi => ?_, fun s op i hm hi => ?_⟩
  · have hs : faultOf (.storeRegs 1) s = none :=
      if_neg (show ¬ 4096 ≤ s.I.toNat + 1 by rw [hI]; omega)
    cases (exec_eq_complete hs).symm.trans hstore
    have hstored : complete (.storeRegs 1) s =
        stepI (storeBytes s s.pc.toNat [readV s 0, readV s 1]) 1 := by rw [← hI]; rfl
    rw [hstored]
    refine step_eq_exec (by simpa [stepI] using running) (by simpa [stepI] using inside) ?_
    exact (congrArg decode (fetchWord_storeBytes_pc hm inside _ _)).trans hi
  · obtain ⟨p, hp, hm, running, inside⟩ := exists_placeWord_eq_storeBytes hm op
    rw [State.withFetchWord, tableWord_toNat, hp]
    refine step_eq_exec (by simpa using running) (by simpa using inside) ?_
    rw [wordBytes, fetchWord_storeBytes_pc hm inside, wordOf_wordBytes, hi]

end Sys2Proof.Machine
end

section
/-! PROOFS. The encoding (O1 to O4; 30_encoding.md R71 to R75). A format that repeats the fields of a word
makes that word again: read after `decode` this gives `encode_of_decode`, read after a mask it gives
`encode_withFieldsOf`, that a word which hits a row is the word of that row's instruction with its own
fields. With `decode_encode` the latter says what each row decodes to (`decode_of_hits`). -/

namespace Sys2Proof

/-! ### A format with the fields of a word -/

section
variable {op : Word} {t n : Nibble} {nn : Byte} {nnn : Addr}

theorem formatA_eq_of_T (hT : opT op = t) : formatA t (opNNN op) = op := hT ▸ formatA_fields op

theorem formatA_eq_of_T_NNN (h : opT op = t ∧ opNNN op = nnn) : formatA t nnn = op :=
  h.2 ▸ formatA_eq_of_T h.1

theorem formatI_eq_of_T (hT : opT op = t) : formatI t (opX op) (opNN op) = op := hT ▸ formatI_fields op

theorem formatI_eq_of_T_NN (h : opT op = t ∧ opNN op = nn) : formatI t (opX op) nn = op :=
  h.2 ▸ formatI_eq_of_T h.1

theorem formatR_eq_of_T (hT : opT op = t) : formatR t (opX op) (opY op) (opN op) = op :=
  hT ▸ formatR_fields op

theorem formatR_eq_of_T_N (h : opT op = t ∧ opN op = n) : formatR t (opX op) (opY op) n = op :=
  h.2 ▸ formatR_eq_of_T h.1

end

/-- Mask F0FF keeps T and NN. -/
theorem hits_T_NN (op : Word) (t : Nibble) (nn : Byte) :
    op &&& 0xF0FF#16 = formatI t 0 nn ↔ opT op = t ∧ opNN op = nn := by
  have hw := formatR_fields (formatI t 0 nn)
  have hnn : nn.toNat = (opY (formatI t 0 nn)).toNat * 16 + (opN (formatI t 0 nn)).toNat := by
    rw [opY_toNat, opN_toNat, formatI_toNat]; omega
  rw [opT_formatI, opX_formatI] at hw
  rw [← hw, hits_TNN, opNN_eq op _ _ nn hnn]

/-! ### Decoding a word that was encoded -/

/-- Family by family: `decode` reads back the family and the selector `encode` wrote, and the `@[simp]`
lemmas of the formats give every operand back. -/
theorem decode_encode (i : Instr) : decode (encode i) = some i := by
  cases i with
  | cls | ret => decide
  | jp | call | ldI | jpV0 | seImm | sneImm | ldImm | addImm | rnd | seReg | sneReg | drw =>
    simp [encode, decode]
  | ldReg | orReg | andReg | xorReg | addReg | subReg | shr | subnReg | shl =>
    simp [encode, decode, decode8]
  | skp | sknp => simp [encode, decode, decodeE]
  | ldVxDt | ldVxK | ldDtVx | ldStVx | addI | ldF | ldB | storeRegs | loadRegs =>
    simp [encode, decode, decodeF]

/-! ### Encoding an instruction that was decoded -/

section
variable {op : Word} {i : Instr}

theorem encode_of_decode0 (hT : opT op = 0x0) (h : decode0 op = some i) : encode i = op := by
  unfold decode0 at h
  split at h
  next hNNN => cases h; exact formatA_eq_of_T_NNN ⟨hT, hNNN⟩
  next =>
    obtain ⟨hNNN, h⟩ := Option.ite_none_right_eq_some.1 h
    cases h; exact formatA_eq_of_T_NNN ⟨hT, hNNN⟩

theorem encode_of_decode8 (hT : opT op = 0x8) (h : decode8 op = some i) : encode i = op := by
  unfold decode8 at h
  split at h <;> cases h <;> next hN => exact formatR_eq_of_T_N ⟨hT, BitVec.eq_of_toNat_eq hN⟩

theorem encode_of_decodeE (hT : opT op = 0xE) (h : decodeE op = some i) : encode i = op := by
  unfold decodeE at h
  split at h <;> cases h <;> next hNN => exact formatI_eq_of_T_NN ⟨hT, BitVec.eq_of_toNat_eq hNN⟩

theorem encode_of_decodeF (hT : opT op = 0xF) (h : decodeF op = some i) : encode i = op := by
  unfold decodeF at h
  split at h <;> cases h <;> next hNN => exact formatI_eq_of_T_NN ⟨hT, BitVec.eq_of_toNat_eq hNN⟩

/-- By the family of the word: each family makes its operands of the word's fields and fixes the rest. -/
theorem encode_of_decode (h : decode op = some i) : encode i = op := by
  unfold decode at h
  split at h
  case h_1 hT => exact encode_of_decode0 (BitVec.eq_of_toNat_eq hT) h
  case h_9 hT => exact encode_of_decode8 (BitVec.eq_of_toNat_eq hT) h
  case h_15 hT => exact encode_of_decodeE (BitVec.eq_of_toNat_eq hT) h
  case h_16 hT => exact encode_of_decodeF (BitVec.eq_of_toNat_eq hT) h
  case h_2 hT | h_3 hT | h_11 hT | h_12 hT =>
    cases h; exact formatA_eq_of_T (BitVec.eq_of_toNat_eq hT)
  case h_4 hT | h_5 hT | h_7 hT | h_8 hT | h_13 hT =>
    cases h; exact formatI_eq_of_T (BitVec.eq_of_toNat_eq hT)
  case h_6 hT | h_10 hT =>
    obtain ⟨hN, h⟩ := Option.ite_none_right_eq_some.1 h
    cases h; exact formatR_eq_of_T_N ⟨BitVec.eq_of_toNat_eq hT, hN⟩
  case h_14 hT => cases h; exact formatR_eq_of_T (BitVec.eq_of_toNat_eq hT)
  case h_17 => cases h

end

/-! ### What a word that hits a row decodes to -/

/-- The instruction of the same row as `i` whose operands are the fields of `op` (R71, R75). -/
def Instr.withFieldsOf (op : Word) : Instr → Instr
  | .cls => .cls
  | .ret => .ret
  | .jp _ => .jp (opNNN op)
  | .call _ => .call (opNNN op)
  | .seImm _ _ => .seImm (opX op) (opNN op)
  | .sneImm _ _ => .sneImm (opX op) (opNN op)
  | .seReg _ _ => .seReg (opX op) (opY op)
  | .ldImm _ _ => .ldImm (opX op) (opNN op)
  | .addImm _ _ => .addImm (opX op) (opNN op)
  | .ldReg _ _ => .ldReg (opX op) (opY op)
  | .orReg _ _ => .orReg (opX op) (opY op)
  | .andReg _ _ => .andReg (opX op) (opY op)
  | .xorReg _ _ => .xorReg (opX op) (opY op)
  | .addReg _ _ => .addReg (opX op) (opY op)
  | .subReg _ _ => .subReg (opX op) (opY op)
  | .shr _ _ => .shr (opX op) (opY op)
  | .subnReg _ _ => .subnReg (opX op) (opY op)
  | .shl _ _ => .shl (opX op) (opY op)
  | .sneReg _ _ => .sneReg (opX op) (opY op)
  | .ldI _ => .ldI (opNNN op)
  | .jpV0 _ => .jpV0 (opNNN op)
  | .rnd _ _ => .rnd (opX op) (opNN op)
  | .drw _ _ _ => .drw (opX op) (opY op) (opN op)
  | .skp _ => .skp (opX op)
  | .sknp _ => .sknp (opX op)
  | .ldVxDt _ => .ldVxDt (opX op)
  | .ldVxK _ => .ldVxK (opX op)
  | .ldDtVx _ => .ldDtVx (opX op)
  | .ldStVx _ => .ldStVx (opX op)
  | .addI _ => .addI (opX op)
  | .ldF _ => .ldF (opX op)
  | .ldB _ => .ldB (opX op)
  | .storeRegs _ => .storeRegs (opX op)
  | .loadRegs _ => .loadRegs (opX op)

/-- The mask of a row keeps exactly the bits that are no operand, so a word that hits the row is known from
its fields. -/
theorem encode_withFieldsOf {i : Instr} {op : Word} (h : op &&& i.row.mask = i.row.pattern) :
    encode (i.withFieldsOf op) = op := by
  cases i with
  | cls | ret => exact h.symm.trans BitVec.and_allOnes
  | jp | call | ldI | jpV0 => exact formatA_eq_of_T ((hits_T op _).1 h)
  | seImm | sneImm | ldImm | addImm | rnd => exact formatI_eq_of_T ((hits_T op _).1 h)
  | drw => exact formatR_eq_of_T ((hits_T op _).1 h)
  | seReg | sneReg | ldReg | orReg | andReg | xorReg | addReg | subReg | shr | subnReg | shl =>
    exact formatR_eq_of_T_N ((hits_TN op _ _).1 h)
  | skp | sknp | ldVxDt | ldVxK | ldDtVx | ldStVx | addI | ldF | ldB | storeRegs | loadRegs =>
    exact formatI_eq_of_T_NN ((hits_T_NN op _ _).1 h)

/-- R74, R75: a word that hits the row of `i` decodes to that row's instruction with its own fields. -/
theorem decode_of_hits (i : Instr) :
    Machine.DecodesAs i.row.mask i.row.pattern fun op => i.withFieldsOf op := fun op h =>
  (congrArg decode (encode_withFieldsOf h)).symm.trans (decode_encode (i.withFieldsOf op))

/-! ### The rows of the opcode map (R75) -/

open Laws.EncodesInItsRow in
/-- Every word that `encode` makes lies in its instruction's row. -/
theorem encodesInItsRow : ∀ i : Instr, Statement i
  | .cls => cls | .ret => ret | .jp _ => jp _ | .call _ => call _ | .seImm _ _ => seImm _ _
  | .sneImm _ _ => sneImm _ _ | .seReg _ _ => seReg _ _ | .ldImm _ _ => ldImm _ _
  | .addImm _ _ => addImm _ _ | .ldReg _ _ => ldReg _ _ | .orReg _ _ => orReg _ _
  | .andReg _ _ => andReg _ _ | .xorReg _ _ => xorReg _ _ | .addReg _ _ => addReg _ _
  | .subReg _ _ => subReg _ _ | .shr _ _ => shr _ _ | .subnReg _ _ => subnReg _ _ | .shl _ _ => shl _ _
  | .sneReg _ _ => sneReg _ _ | .ldI _ => ldI _ | .jpV0 _ => jpV0 _ | .rnd _ _ => rnd _ _
  | .drw _ _ _ => drw _ _ _ | .skp _ => skp _ | .sknp _ => sknp _ | .ldVxDt _ => ldVxDt _
  | .ldVxK _ => ldVxK _ | .ldDtVx _ => ldDtVx _ | .ldStVx _ => ldStVx _ | .addI _ => addI _
  | .ldF _ => ldF _ | .ldB _ => ldB _ | .storeRegs _ => storeRegs _ | .loadRegs _ => loadRegs _

/-- The pattern of a row, read as a word, is an instruction of that row. -/
theorem decode_pattern_row :
    ∀ r ∈ opcodeTable, (decode r.pattern).map Instr.row = some r := by decide

theorem exists_row_eq {r : OpcodeRow} (hr : r ∈ opcodeTable) : ∃ i : Instr, i.row = r := by
  obtain ⟨i, -, hi⟩ := Option.map_eq_some_iff.1 (decode_pattern_row r hr)
  exact ⟨i, hi⟩

/-- Two rows whose patterns agree on the bits both masks keep are one row. -/
theorem row_eq_of_compatible : ∀ r ∈ opcodeTable, ∀ r' ∈ opcodeTable,
    r.pattern &&& r'.mask = r'.pattern &&& r.mask → r = r' := by decide

/-- No two rows match one word: the word would make their patterns agree on the bits both masks keep. -/
theorem row_eq_of_hits {op : Word} {r r' : OpcodeRow} (hr : r ∈ opcodeTable) (hr' : r' ∈ opcodeTable)
    (h : op &&& r.mask = r.pattern) (h' : op &&& r'.mask = r'.pattern) : r = r' := by
  refine row_eq_of_compatible r hr r' hr' ?_
  rw [← h, ← h', BitVec.and_assoc, BitVec.and_assoc, BitVec.and_comm r.mask]

/-- R74, R75: a decoded word hits the row of its instruction, one of the 34. -/
theorem row_of_decode {op : Word} {i : Instr} (h : decode op = some i) :
    i.row ∈ opcodeTable ∧ op &&& i.row.mask = i.row.pattern := by
  rw [← encode_of_decode h]; exact encodesInItsRow i

/-! ### The statements -/

/-- Settles O1 by `decode_encode`, a case for each family of instructions. -/
theorem decodeOfEncodeIsTheInstruction : Obligations.DecodeOfEncodeIsTheInstruction := decode_encode

/-- Settles O2 by `encode_of_decode`, a case for each family of words. -/
theorem encodeOfDecodeIsTheWord : Obligations.EncodeOfDecodeIsTheWord := fun _ _ => encode_of_decode

/-- Settles O3: a decoded word hits its instruction's row (`row_of_decode`), a word that hits a row decodes
(`decode_of_hits`), and no word hits two rows (`row_eq_of_hits`). -/
theorem recognisedExactlyWhenOneRowMatches : Obligations.RecognisedExactlyWhenOneRowMatches := by
  refine fun op => ⟨⟨fun h => ?_, fun ⟨r, hr, h⟩ => ?_⟩, fun r hr r' hr' => row_eq_of_hits hr hr',
    fun i => row_of_decode⟩
  · obtain ⟨i, hi⟩ := Option.isSome_iff_exists.1 h
    exact ⟨i.row, row_of_decode hi⟩
  · obtain ⟨i, rfl⟩ := exists_row_eq hr
    rw [decode_of_hits i op h]; rfl

/-- Settles O4 by evaluating the decoder on the 21 words. -/
theorem wordsOfTheSpecDecode : Obligations.WordsOfTheSpecDecode := by
  unfold Obligations.WordsOfTheSpecDecode
  decide

end Sys2Proof
end

section
/-! PROOFS. The logical operations of family 8 (O20; 42_alu.md R123 to R125). -/

namespace Sys2Proof.Machine

/-- Settles O20: each operation writes VX only, and bit `k` of what it writes is the operation on the bits
`k` of its operands. -/
theorem logicIsBitwiseAndLeavesVf : Obligations.LogicIsBitwiseAndLeavesVf := by
  refine ⟨decode_of_hits (.orReg 0 0), decode_of_hits (.andReg 0 0), decode_of_hits (.xorReg 0 0),
    fun x y s => ⟨?_, ?_, ?_⟩⟩
  · refine ⟨_, rfl, exec_sameExcept (i := .orReg x y) rfl, fun k => ?_⟩
    rw [readV_writeV_same, BitVec.getLsbD_or]
  · refine ⟨_, rfl, exec_sameExcept (i := .andReg x y) rfl, fun k => ?_⟩
    rw [readV_writeV_same, BitVec.getLsbD_and]
  · refine ⟨_, rfl, exec_sameExcept (i := .xorReg x y) rfl, fun k => ?_⟩
    rw [readV_writeV_same, BitVec.getLsbD_xor]

end Sys2Proof.Machine
end

section
/-! PROOFS. The `step` event, its report and the cycle scheduler (O5, O6, O9, O39, O56;
40_step_and_scheduler.md). A step has four ways to go (R90): the machine is FAULTED, the fetch is beyond
memory, the word is unrecognised, or it decodes. For each there is an equation of `step` and one of
`stepReport` (the fourth of `step` is `step_eq_exec`), and the statements about one step compare the two.
No event stops the model, so every run has an end state (`exists_runEvents_eq_next`), and a list of events
runs part by part (`runEvents_append`). -/

namespace Sys2Proof.Machine

/-! ### A step and its report, way by way -/

/-- R95. -/
theorem step_of_faulted {s : State} (faulted : s.status = .faulted) : step s = .next s := by
  simp [step, faulted]

/-- R94, R95. -/
theorem stepReport_of_faulted {s : State} (faulted : s.status = .faulted) :
    stepReport s = some .stopped := by
  simp [stepReport, faulted]

section
variable {s : State} (running : s.status = .running)
include running

/-- R54, R173: the fetch fault, taken before the increment. -/
theorem step_of_fetch_outside (outside : 0xFFE < s.pc.toNat) :
    step s = .next (takeFault .fetchOob s.pc s.pc s) := by
  simp [step, running, fetchOutside, outside]

theorem stepReport_of_fetch_outside (outside : 0xFFE < s.pc.toNat) :
    stepReport s = some (.fault .fetchOob s.pc s.pc) := by
  simp [stepReport, running, fetchOutside, outside]

/-- R93: an unrecognised word is a no-op. -/
theorem step_of_decode_none (inside : s.pc.toNat ≤ 0xFFE) (hd : decode (fetchWord s) = none) :
    step s = .next (advancePc s) := by
  simp [step, running, fetchOutside, inside, hd, execUnrecognised]

/-- R176: the decode warning. -/
theorem stepReport_of_decode_none (inside : s.pc.toNat ≤ 0xFFE) (hd : decode (fetchWord s) = none) :
    stepReport s = some (.warn (fetchWord s) s.pc) := by
  simp [stepReport, running, fetchOutside, inside, hd]

theorem stepReport_eq_reportOf {i : Instr} (inside : s.pc.toNat ≤ 0xFFE)
    (hd : decode (fetchWord s) = some i) : stepReport s = reportOf s.pc (exec i (advancePc s)) := by
  simp [stepReport, running, fetchOutside, inside, hd]

end

/-- R90: the fetch-side increment changes PC only. -/
theorem advancePc_sameExcept (s : State) : SameExcept [.pc] s (advancePc s) :=
  (SameExcept.refl _ s).setPc (by simp) (s.pc + 2)

/-- R54: a word that can be fetched does not end beyond 0x1000, so the increment does not wrap. -/
theorem advancePc_pc_toNat {s : State} (inside : s.pc.toNat ≤ 0xFFE) :
    (advancePc s).pc.toNat = s.pc.toNat + 2 := by
  rw [advancePc_pc]
  bv_omega

/-- Settles O5: `step_eq_exec` and `step_of_decode_none`, with `fetchWord` and `advancePc` written out. -/
theorem stepRunsTheDecodedInstruction : Obligations.StepRunsTheDecodedInstruction :=
  fun _ running inside =>
    ⟨fun _ hd => step_eq_exec running inside hd, fun hd => step_of_decode_none running inside hd⟩

/-- Settles O6: the step of an unrecognised word is the fetch-side increment. -/
theorem unrecognisedWordIsANoOp : Obligations.UnrecognisedWordIsANoOp :=
  fun s running inside hd =>
    ⟨advancePc s, step_of_decode_none running inside hd, advancePc_pc_toNat inside,
      advancePc_sameExcept s, stepReport_of_decode_none running inside hd⟩

/-! ### What the four reports tell -/

/-- R94, R173: a recognised instruction either takes the fault it reports, its word fetched from the PC of
`s`, or completes in a RUNNING state and reports `ok`. -/
theorem step_and_report_of_decode_some {s t : State} {i : Instr} (running : s.status = .running)
    (inside : s.pc.toNat ≤ 0xFFE) (hd : decode (fetchWord s) = some i) (h : step s = .next t) :
    (t.status = .running ∧ stepReport s = some .ok) ∨
      (t.status = .faulted ∧ t.faultIpc = s.pc ∧
        stepReport s = some (.fault t.faultCause t.faultInfo s.pc)) := by
  rw [step_eq_exec running inside hd] at h
  rw [stepReport_eq_reportOf running inside hd, h]
  cases hf : faultOf i (advancePc s) with
  | none =>
    obtain ⟨u, hu, completed⟩ := exec_of_faultOf_none hf
    cases hu.symm.trans h
    have hrun : t.status = .running := completed.status.trans running
    exact .inl ⟨hrun, by simp [reportOf, hrun]⟩
  | some p =>
    cases (exec_of_faultOf_some hf).symm.trans h
    exact .inr ⟨rfl, by simp, rfl⟩

/-- Settles O39: each way of a step has one report, and the other three clauses fail there on the status
before, the status after or the fetched word. -/
theorem reportsAgreeWithTheState : Obligations.ReportsAgreeWithTheState := by
  intro s t h op
  rw [show op = fetchWord s from rfl]
  cases hs : s.status with
  | faulted => simp [stepReport_of_faulted hs]
  | running =>
    rcases Nat.lt_or_ge 0xFFE s.pc.toNat with outside | inside
    · cases (step_of_fetch_outside hs outside).symm.trans h
      simp [stepReport_of_fetch_outside hs outside, outside]
    · cases hd : decode (fetchWord s) with
      | none =>
        cases (step_of_decode_none hs inside hd).symm.trans h
        simp [stepReport_of_decode_none hs inside hd, hs, inside, eq_comm]
      | some i =>
        obtain ⟨ht, hr⟩ | ⟨ht, hipc, hr⟩ := step_and_report_of_decode_some hs inside hd h
        · simp [hr, ht, inside]
        · simp [hr, ht, hipc]

/-! ### Every event answers a next state -/

/-- R90, R94: a fault is taken, and no step stops the model. -/
theorem exists_step_eq_next (s : State) : ∃ t, step s = .next t := by
  cases hs : s.status with
  | faulted => exact ⟨s, step_of_faulted hs⟩
  | running =>
    rcases Nat.lt_or_ge 0xFFE s.pc.toNat with outside | inside
    · exact ⟨_, step_of_fetch_outside hs outside⟩
    · cases hd : decode (fetchWord s) with
      | none => exact ⟨_, step_of_decode_none hs inside hd⟩
      | some i =>
        rw [step_eq_exec hs inside hd]
        exact exists_exec_eq_next i _

theorem exists_deliver_eq_next (e : Event) (s : State) : ∃ t, deliver e s = .next t := by
  cases e with
  | step => exact exists_step_eq_next s
  | reset | load | tick | setKey | ackRedraw => exact ⟨_, rfl⟩

theorem exists_runEvents_eq_next (es : List Event) (s : State) : ∃ t, runEvents es s = .next t := by
  induction es generalizing s with
  | nil => exact ⟨s, rfl⟩
  | cons e es ih =>
    obtain ⟨u, hu⟩ := exists_deliver_eq_next e s
    obtain ⟨t, ht⟩ := ih u
    exact ⟨t, runEvents_cons_eq_next.2 ⟨u, hu, ht⟩⟩

/-- Settles O9: an instruction completes or takes its fault, and a run is its events one after another. -/
theorem everyEventAnswersANextState : Obligations.EveryEventAnswersANextState :=
  ⟨exists_exec_eq_next, exists_runEvents_eq_next⟩

/-! ### The cycle scheduler -/

/-- R97: a run of a concatenated list goes on from the end state of its first part. -/
theorem runEvents_append {es es' : List Event} {s u : State} (hu : runEvents es s = .next u) :
    runEvents (es ++ es') s = runEvents es' u := by
  induction es generalizing s with
  | nil => cases hu; rfl
  | cons e es ih =>
    obtain ⟨v, hv, hu⟩ := runEvents_cons_eq_next.1 hu
    rw [List.cons_append, runEvents, hv]
    exact ih hu

/-- R174: the timers of a FAULTED machine freeze. -/
theorem tick_of_faulted {s : State} (faulted : s.status = .faulted) : tick s = s := by
  simp [tick, faulted]

/-- R96: one period of the cadence is the frame's steps, then its tick. -/
theorem externalTick_eq_next {s u : State}
    (hu : runEvents (List.replicate (s.config.ips / 60) .step) s = .next u) :
    externalTick s = .next (tick u) :=
  runEvents_append hu

/-- Settles O56: `externalTick_eq_next` at the end state of the frame's steps; with IPS below 60 there are
none, and a FAULTED state does not tick. -/
theorem externalTickIsIpfStepsThenOneTick : Obligations.ExternalTickIsIpfStepsThenOneTick := by
  intro s
  obtain ⟨u, hu⟩ := exists_runEvents_eq_next (List.replicate (s.config.ips / 60) .step) s
  refine ⟨u, hu, externalTick_eq_next hu, fun slow => externalTick_eq_next ?_, fun faulted => ?_⟩
  · rw [Nat.div_eq_of_lt slow]; rfl
  · rw [externalTick_eq_next hu, tick_of_faulted faulted]

end Sys2Proof.Machine
end

section
/-! PROOFS. Jump and skips (O10, O14, O15; 41_control_transfer.md R101, R103 to R106, R108). The four
instructions that compare and skip differ in their condition only, so `exists_exec_eq_skip` speaks of any
instruction whose meaning is `skipIf`. -/

namespace Sys2Proof.Machine

/-- R108, D28: a skip adds 2 to PC modulo 65536. PC may be any word here, where `skipIf_pc_toNat` has it
come from a fetch inside memory. -/
theorem skipIf_pc_toNat_mod (s : State) {c : Bool} {P : Prop} [Decidable P] (hP : c = true ↔ P) :
    (skipIf c s).pc.toNat = if P then (s.pc.toNat + 2) % 65536 else s.pc.toNat := by
  simp only [skipIf_pc, hP]
  split
  · exact BitVec.toNat_add _ _
  · rfl

/-- R108: an instruction that is `skipIf` skips where its condition holds, and writes PC only. -/
theorem exists_exec_eq_skip {i : Instr} {s : State} {c : Bool} {P : Prop} [Decidable P]
    (hi : exec i s = .next (skipIf c s)) (hP : c = true ↔ P) :
    ∃ t, exec i s = .next t ∧ SameExcept [.pc] s t ∧
      t.pc.toNat = if P then (s.pc.toNat + 2) % 65536 else s.pc.toNat :=
  ⟨skipIf c s, hi, (SameExcept.refl _ s).skipIf (by simp) c, skipIf_pc_toNat_mod s hP⟩

/-- The same for an instruction that skips where `P` fails (R104, R106). -/
theorem exists_exec_eq_skip_not {i : Instr} {s : State} {c : Bool} {P : Prop} [Decidable P]
    (hi : exec i s = .next (skipIf c s)) (hP : c = true ↔ ¬ P) :
    ∃ t, exec i s = .next t ∧ SameExcept [.pc] s t ∧
      t.pc.toNat = if P then s.pc.toNat else (s.pc.toNat + 2) % 65536 := by
  simpa only [ite_not] using exists_exec_eq_skip hi hP

/-- R105, R106, D22: the low nibble of a 5XYN or 9XYN is fixed at 0. -/
theorem decode_eq_none_of_selector {op : Word} (hT : opT op = 5#4 ∨ opT op = 9#4) (hN : opN op ≠ 0#4) :
    decode op = none := by
  obtain hT | hT := hT
  · simp [decode, hT, hN]
  · simp [decode, hT, hN]

/-- Settles O10: the jump is one `setPc`, and NNN loses nothing on the way to 16 bits. -/
theorem jumpLoadsPc : Obligations.JumpLoadsPc :=
  ⟨decode_of_hits (.jp 0), fun nnn s =>
    ⟨setPc s (zext16 nnn), rfl, BitVec.toNat_setWidth_of_le (by decide),
      exec_sameExcept (i := .jp nnn) rfl⟩⟩

/-- Settles O14: both instructions compare VX with NN and are `skipIf`. -/
theorem skipOnImmediate : Obligations.SkipOnImmediate :=
  ⟨decode_of_hits (.seImm 0 0), decode_of_hits (.sneImm 0 0), fun _ _ _ =>
    ⟨exists_exec_eq_skip rfl beq_iff_eq, exists_exec_eq_skip_not rfl bne_iff_ne⟩⟩

/-- Settles O15: both instructions compare VX with VY and are `skipIf`. -/
theorem skipOnRegisters : Obligations.SkipOnRegisters :=
  ⟨decode_of_hits (.seReg 0 0), decode_of_hits (.sneReg 0 0), fun _ => decode_eq_none_of_selector,
    fun _ _ _ => ⟨exists_exec_eq_skip rfl beq_iff_eq, exists_exec_eq_skip_not rfl bne_iff_ne⟩⟩

end Sys2Proof.Machine
end

section
/-! PROOFS. Loads, additions and shifts (O17, O18, O19, O21, O23, O24; 42_alu.md R120 to R122, R126, R128,
R130). Three of these instructions are one write of VX, the other three a result and then the flag (R21);
one lemma speaks for each kind, and a statement then adds what the written byte is as a number. -/

namespace Sys2Proof.Machine

section
variable {i : Instr} {s : State} {x : Nibble}

/-- An instruction that is `writeV` writes VX only. -/
theorem exists_exec_eq_writeV {b : Byte} (hi : exec i s = .next (writeV s x b)) :
    ∃ t, exec i s = .next t ∧ readV t x = b ∧ SameExcept [.reg x] s t :=
  ⟨_, hi, readV_writeV_same s x b, (SameExcept.refl _ s).writeV (by simp) b⟩

/-- R21: an instruction that writes a result and then a flag leaves the flag in VF for every X, and the
result in VX where that is another register. -/
theorem exists_exec_eq_writeResultThenFlag {r : Byte} {c : Bool} {flag result : Nat}
    (hi : exec i s = .next (writeResultThenFlag s x r c))
    (hflag : (flagByte c).toNat = flag) (hresult : r.toNat = result) :
    ∃ t, exec i s = .next t ∧ SameExcept [.reg x, .reg vf] s t ∧ (readV t vf).toNat = flag ∧
      (x ≠ vf → (readV t x).toNat = result) := by
  refine ⟨_, hi, (SameExcept.refl _ s).writeResultThenFlag (by simp) (by simp) r c, ?_, fun hx => ?_⟩
  · rw [readV_writeResultThenFlag, if_pos rfl, hflag]
  · rw [readV_writeResultThenFlag, if_neg hx, if_pos rfl, hresult]

end

/-! ### Bytes as numbers -/

/-- R126: the carry is 1 exactly when the sum leaves a byte. -/
theorem carryOut_toNat (a b : Byte) :
    (flagByte (carryOut a b)).toNat = if 255 < a.toNat + b.toNat then 1 else 0 := by
  simp only [flagByte_toNat, carryOut, decide_eq_true_eq]

/-- R128: one place to the right is half the value, rounded down. -/
theorem ushiftRight_one_toNat (t : Byte) : (t >>> 1).toNat = t.toNat / 2 := by
  rw [BitVec.toNat_ushiftRight, Nat.shiftRight_one]

/-- R130: one place to the left is twice the value, modulo 256. -/
theorem shiftLeft_one_toNat (t : Byte) : (t <<< 1).toNat = 2 * t.toNat % 256 := by
  rw [BitVec.toNat_shiftLeft, Nat.shiftLeft_eq, pow_one, Nat.mul_comm]

/-! ### The statements -/

/-- Settles O17: the instruction is one write of VX. -/
theorem loadImmediateWritesTheByte : Obligations.LoadImmediateWritesTheByte :=
  ⟨decode_of_hits (.ldImm 0 0), fun _ _ _ => exists_exec_eq_writeV rfl⟩

/-- Settles O18: the instruction is one write of VX, and a byte's sum is modulo 256. -/
theorem addImmediateWrapsWithoutFlag : Obligations.AddImmediateWrapsWithoutFlag := by
  refine ⟨decode_of_hits (.addImm 0 0), fun x nn s => ?_⟩
  obtain ⟨t, ht, hx, unchanged⟩ : ∃ t, exec (.addImm x nn) s = .next t ∧
    readV t x = readV s x + nn ∧ SameExcept [.reg x] s t := exists_exec_eq_writeV rfl
  exact ⟨t, ht, by rw [hx, BitVec.toNat_add], unchanged⟩

/-- Settles O19: the instruction is one write of VX. -/
theorem copyRegisterWritesVy : Obligations.CopyRegisterWritesVy :=
  ⟨decode_of_hits (.ldReg 0 0), fun _ _ _ => exists_exec_eq_writeV rfl⟩

/-- Settles O21: the result is the sum of two bytes, the flag its carry. -/
theorem addWritesSumThenCarry : Obligations.AddWritesSumThenCarry :=
  ⟨decode_of_hits (.addReg 0 0), fun _ _ _ =>
    exists_exec_eq_writeResultThenFlag rfl (carryOut_toNat _ _) (BitVec.toNat_add _ _)⟩

/-- Settles O23: the result is half of the operand, the flag the bit shifted out. -/
theorem shiftRightDropsBitZeroIntoVf : Obligations.ShiftRightDropsBitZeroIntoVf :=
  ⟨decode_of_hits (.shr 0 0), fun x y s =>
    exists_exec_eq_writeResultThenFlag rfl (lowBitOut_toNat (shiftOperand s x y))
      (ushiftRight_one_toNat (shiftOperand s x y))⟩

/-- Settles O24: the result is twice the operand, the flag the bit shifted out. -/
theorem shiftLeftDropsBitSevenIntoVf : Obligations.ShiftLeftDropsBitSevenIntoVf :=
  ⟨decode_of_hits (.shl 0 0), fun x y s =>
    exists_exec_eq_writeResultThenFlag rfl (highBitOut_toNat (shiftOperand s x y))
      (shiftLeft_one_toNat (shiftOperand s x y))⟩

end Sys2Proof.Machine
end

section
/-! PROOFS. The loads of I (O26; 43_index_memory.md R140, R142). Both instructions are one write of I; a
statement then adds what the written word is as a number. -/

namespace Sys2Proof.Machine

/-- R23: an instruction that is `setI` writes I only. -/
theorem exists_exec_eq_setI {i : Instr} {s : State} {w : Word} {n : Nat} (hi : exec i s = .next (setI s w))
    (hw : w.toNat = n) : ∃ t, exec i s = .next t ∧ t.I.toNat = n ∧ SameExcept [.index] s t :=
  ⟨setI s w, hi, hw, (SameExcept.refl _ s).setI (by simp) w⟩

/-- R142: five times a byte is at most 1275, so nothing is lost in 16 bits. -/
theorem zext16_mul_five_toNat (b : Byte) : (zext16 b * 5).toNat = b.toNat * 5 := by
  have hb : (zext16 b).toNat = b.toNat := BitVec.toNat_setWidth_of_le (by decide)
  have fits : b.toNat * 5 < 2 ^ 16 := by have := b.isLt; omega
  rw [BitVec.toNat_mul, hb]
  exact Nat.mod_eq_of_lt fits

/-- Settles O26: NNN and five times VX both fit in 16 bits, so I holds them whole. -/
theorem indexLoads : Obligations.IndexLoads :=
  ⟨decode_of_hits (.ldI 0), decode_of_hits (.ldF 0),
    fun _ _ => exists_exec_eq_setI rfl (BitVec.toNat_setWidth_of_le (by decide)),
    fun x s => exists_exec_eq_setI rfl (zext16_mul_five_toNat (readV s x))⟩

end Sys2Proof.Machine
end

section
/-! PROOFS. The display (O32 to O34; 44_display.md R150 to R153). A DXYN that does not fault is
`complete (.drw x y n)`; what it does to a cell and to VF is said once, through `SpriteCovers`, and that
drawing twice restores the framebuffer (R153) follows from it: a cell has two values, so one that is
inverted twice, or never, is as before. -/

namespace Sys2Proof.Machine

/-! ### Clear -/

/-- Settles O32: the instruction is `showFb` of the blank framebuffer, whatever the framebuffer was. -/
theorem clearBlanksTheFramebuffer : Obligations.ClearBlanksTheFramebuffer :=
  ⟨decode_of_hits .cls, fun s =>
    ⟨showFb s Framebuffer.blank, rfl, fun i _ => Framebuffer.cell_blank i, rfl,
      exec_sameExcept (i := .cls) rfl⟩⟩

/-! ### The fault -/

/-- R171, R173: where the table gives a fault, it is taken, with the table's info whole in 16 bits. -/
theorem exists_exec_eq_faultTaken {i : Instr} {s : State} {c : FaultCause} {n : Nat}
    (h : faultOf i s = some (c, n)) (fits : n < 65536) :
    ∃ t, exec i s = .next t ∧ FaultTaken c n (s.pc - 2) s t :=
  ⟨_, exec_of_faultOf_some h, rfl, rfl, Nat.mod_eq_of_lt fits, rfl,
    (SameExcept.refl _ s).takeFault (by simp) _ _ _⟩

/-- R56: a sprite with no rows, or with its last row inside memory, does not fault. -/
theorem faultOf_drw_eq_none {x y n : Nibble} {s : State}
    (inside : n.toNat = 0 ∨ s.I.toNat + n.toNat - 1 < 4096) : faultOf (.drw x y n) s = none :=
  if_neg (by omega)

/-! ### Which cells a sprite covers -/

/-- R152: the cells the model draws on are those the spec's formula names. -/
theorem mem_spritePixels_blockAtI (s : State) (x0 y0 n i : Nat) :
    i ∈ spritePixels x0 y0 0 (blockAtI s n) ↔ SpriteCovers s x0 y0 n i := by
  simp only [mem_spritePixels, blockAtI, readBytes_length, readBytes_getElem, pixelIndex_eq, Nat.zero_add,
    SpriteCovers, exists_prop]

/-- The covered cells depend on I and memory only. -/
theorem spriteCovers_congr {s u : State} (hI : u.I = s.I) (hmem : ∀ a, readByte u a = readByte s a)
    (x0 y0 n i : Nat) : SpriteCovers u x0 y0 n i ↔ SpriteCovers s x0 y0 n i := by
  simp only [SpriteCovers, hI, hmem]

/-! ### What a completed draw does -/

theorem flagByte_eq_one_iff (c : Bool) : flagByte c = 1 ↔ c = true := by
  cases c <;> decide

section
variable (x y n : Nibble) (s : State)

/-- `drawSprite_spec` for the sprite at I, whose rows are at most 15. -/
theorem drawSprite_blockAtI_spec (x0 y0 : Nat) :
    (∀ i, (drawSprite s.fb x0 y0 (blockAtI s n.toNat)).1.cell i ≠ readCell s i ↔
        SpriteCovers s x0 y0 n.toNat i) ∧
      ((drawSprite s.fb x0 y0 (blockAtI s n.toNat)).2 = true ↔
        ∃ i, SpriteCovers s x0 y0 n.toNat i ∧ readCell s i = true) := by
  have rows : (blockAtI s n.toNat).length ≤ 32 := by
    rw [blockAtI_length]
    have := n.isLt
    omega
  obtain ⟨cells, hit⟩ := drawSprite_spec s.fb x0 y0 _ rows
  simp only [mem_spritePixels_blockAtI] at hit
  refine ⟨fun i => ?_, hit⟩
  rw [cells i, ← mem_spritePixels_blockAtI, readCell]
  cases s.fb.cell i <;> simp

/-- R151: a draw inverts exactly the covered cells. -/
theorem readCell_complete_drw_ne_iff (i : Nat) :
    readCell (complete (.drw x y n) s) i ≠ readCell s i ↔
      SpriteCovers s (readV s x).toNat (readV s y).toNat n.toNat i :=
  (drawSprite_blockAtI_spec n s _ _).1 i

theorem readV_vf_complete_drw :
    readV (complete (.drw x y n) s) vf =
      flagByte (drawSprite s.fb (readV s x).toNat (readV s y).toNat (blockAtI s n.toNat)).2 :=
  readV_writeV_same s vf _

/-- R151: VF is 1 exactly when a covered cell was 1. -/
theorem readV_vf_complete_drw_eq_one_iff :
    readV (complete (.drw x y n) s) vf = 1 ↔
      ∃ i, SpriteCovers s (readV s x).toNat (readV s y).toNat n.toNat i ∧ readCell s i = true := by
  rw [readV_vf_complete_drw, flagByte_eq_one_iff]
  exact (drawSprite_blockAtI_spec n s _ _).2

/-- R21: VF is left as a flag. -/
theorem readV_vf_complete_drw_eq_one_or_zero :
    readV (complete (.drw x y n) s) vf = 1 ∨ readV (complete (.drw x y n) s) vf = 0 := by
  rw [readV_vf_complete_drw]
  unfold flagByte
  split
  · exact .inl rfl
  · exact .inr rfl

/-- R151: a draw writes VF, the framebuffer and `redraw`. -/
theorem complete_drw_sameExcept :
    SameExcept [.reg vf, .framebuffer, .redraw] s (complete (.drw x y n) s) :=
  ((SameExcept.refl _ s).writeV (by simp) _).showFb (by simp) (by simp) _

end

/-! ### The statements about DXYN -/

/-- Settles O33: a draw inside memory is `complete`, whose cells and VF are known, and one beyond it takes
the fault of R171. -/
theorem drawInvertsTheCoveredCells : Obligations.DrawInvertsTheCoveredCells := by
  refine ⟨decode_of_hits (.drw 0 0 0), fun x y n s inside => ?_, fun x y n s rows outside => ?_⟩
  · refine ⟨_, exec_eq_complete (faultOf_drw_eq_none inside),
      fun i _ => readCell_complete_drw_ne_iff x y n s i, (readV_vf_complete_drw_eq_one_iff x y n s).2,
      fun clear => (readV_vf_complete_drw_eq_one_or_zero x y n s).resolve_left fun one => ?_, rfl,
      complete_drw_sameExcept x y n s⟩
    obtain ⟨i, covered, set⟩ := (readV_vf_complete_drw_eq_one_iff x y n s).1 one
    exact Bool.false_ne_true ((clear i covered).symm.trans set)
  · exact exists_exec_eq_faultTaken (if_pos ⟨rows, outside⟩) s.I.isLt

/-- Settles O34: both draws invert the same cells, so each cell is inverted twice or never, and a covered
cell is 1 at the second draw exactly when it was 0 before the first. -/
theorem drawingTwiceRestoresTheFramebuffer : Obligations.DrawingTwiceRestoresTheFramebuffer := by
  intro x y n s t u inside ht hx hy hI hmem hfb
  cases (exec_eq_complete (faultOf_drw_eq_none inside)).symm.trans ht
  have first := readCell_complete_drw_ne_iff x y n s
  have second := readCell_complete_drw_ne_iff x y n u
  have collision := readV_vf_complete_drw_eq_one_iff x y n u
  simp only [hx, hy, spriteCovers_congr hI hmem, hfb] at second collision
  refine ⟨_, exec_eq_complete (faultOf_drw_eq_none (hI ▸ inside)), fun i _ => ?_, ?_,
    readV_vf_complete_drw_eq_one_or_zero x y n u⟩
  · by_cases covered : SpriteCovers s (readV s x).toNat (readV s y).toNat n.toNat i
    · rw [Bool.eq_not_of_ne ((second i).2 covered), Bool.eq_not_of_ne ((first i).2 covered), Bool.not_not]
    · exact (not_ne_iff.1 (mt (second i).1 covered)).trans (not_ne_iff.1 (mt (first i).1 covered))
  · refine collision.trans (exists_congr fun i => and_congr_right fun covered => ?_)
    rw [Bool.eq_not_of_ne ((first i).2 covered), Bool.not_eq_true']

end Sys2Proof.Machine
end

section
/-! PROOFS. Keys and timers (O35 to O37; 45_keys_timers.md R160 to R166). EX9E and EXA1 are `skipIf` once
VX is the code of a key; FX0A is one write of VX or the rewind of PC, as `firstKey` finds a key or not; the
timer instructions are one write each. -/

namespace Sys2Proof.Machine

section
variable {x : Nibble} {s : State} {k : Fin 16}

/-! ### The key numbered VX -/

theorem keyCode_eq_some {v : Byte} (hv : v.toNat = k.val) : keyCode v = some k :=
  (dif_pos (by omega)).trans (congrArg some (Fin.ext hv))

/-- R160: with VX the code of a key, EX9E skips if that key is pressed. -/
theorem exec_skp_eq_skipIf (hx : (readV s x).toNat = k.val) :
    exec (.skp x) s = .next (skipIf (keyDown s k) s) := by
  simp only [exec, execSkp, keyCode_eq_some hx]

/-- R161: with VX the code of a key, EXA1 skips if that key is not pressed. -/
theorem exec_sknp_eq_skipIf (hx : (readV s x).toNat = k.val) :
    exec (.sknp x) s = .next (skipIf (!keyDown s k) s) := by
  simp only [exec, execSknp, keyCode_eq_some hx]

/-! ### The wait for a key -/

/-- R165: where the scan finds a key, FX0A writes its code. -/
theorem exec_ldVxK_of_firstKey_some (hk : firstKey s = some k) :
    exec (.ldVxK x) s = .next (writeV s x (BitVec.ofNat 8 k.val)) := by
  simp only [exec, execLdVxK, hk]

/-- R165: where the scan finds no key, FX0A rewinds PC. -/
theorem exec_ldVxK_of_firstKey_none (hk : firstKey s = none) : exec (.ldVxK x) s = .next (rewindPc s) := by
  simp only [exec, execLdVxK, hk]

theorem ofNat_key_toNat (k : Fin 16) : (BitVec.ofNat 8 k.val).toNat = k.val :=
  Nat.mod_eq_of_lt (by omega)

end

/-! ### The timers -/

/-- R180: a timer that stays at 0 counts down as a natural number does. -/
theorem countDown_toNat (t : Byte) : (countDown t).toNat = t.toNat - 1 := by
  unfold countDown
  split
  next ht => rw [ht]; rfl
  next ht => bv_omega

theorem tick_of_running {s : State} (running : s.status = .running) :
    tick s = { s with dt := countDown s.dt, st := countDown s.st } := by
  simp only [tick, running]

/-! ### The statements -/

/-- Settles O35: with VX the code of a key both instructions are `skipIf`; any other VX is in the table of
R171. -/
theorem skipOnKey : Obligations.SkipOnKey := by
  refine ⟨decode_of_hits (.skp 0), decode_of_hits (.sknp 0), fun x s k hx => ⟨?_, ?_⟩,
    fun x s noKey => ?_⟩
  · exact exists_exec_eq_skip (exec_skp_eq_skipIf hx) Iff.rfl
  · exact exists_exec_eq_skip_not (exec_sknp_eq_skipIf hx) (by simp)
  · have fits : (readV s x).toNat < 65536 := (readV s x).isLt.trans (by decide)
    exact ⟨exists_exec_eq_faultTaken (if_pos noKey) fits, exists_exec_eq_faultTaken (if_pos noKey) fits⟩

/-- Settles O36: each instruction is one write, and the next tick takes one from the DT written. -/
theorem timerMoves : Obligations.TimerMoves := by
  refine ⟨decode_of_hits (.ldVxDt 0), decode_of_hits (.ldDtVx 0), decode_of_hits (.ldStVx 0),
    fun x s => ⟨exists_exec_eq_writeV rfl, ?_, ?_⟩⟩
  · refine ⟨setDt s (readV s x), rfl, rfl, exec_sameExcept (i := .ldDtVx x) rfl, fun running => ?_⟩
    rw [tick_of_running running]
    exact countDown_toNat (readV s x)
  · exact ⟨setSt s (readV s x), rfl, rfl, exec_sameExcept (i := .ldStVx x) rfl, decide_eq_true_iff⟩

/-- Settles O37: the scan finds the lowest pressed key, whose code a byte holds whole, or none, and the
rewind undoes the fetch-side increment. -/
theorem waitForKeyTakesTheLowestOrRewinds : Obligations.WaitForKeyTakesTheLowestOrRewinds := by
  refine ⟨decode_of_hits (.ldVxK 0), fun x s k pressed lowest => ?_, fun x s a released hpc => ?_⟩
  · obtain ⟨t, ht, hx, unchanged⟩ :=
      exists_exec_eq_writeV (exec_ldVxK_of_firstKey_some (x := x) (firstKey_some s k pressed lowest))
    exact ⟨t, ht, by rw [hx, ofNat_key_toNat], unchanged⟩
  · refine ⟨_, exec_ldVxK_of_firstKey_none ((firstKey_none s).2 released), ?_,
      (SameExcept.refl _ s).setPc (by simp) (s.pc - 2)⟩
    rw [rewindPc_pc, hpc, BitVec.add_sub_cancel]

end Sys2Proof.Machine
end

section
/-! PROOFS. Faults and timers (O8, O38, O54, O55; 60_exceptions.md R171 to R174, R180). Only `reset` takes a
FAULTED machine out of `FrozenLike`, so every run without one stays there. A run of ticks counts each timer
down as a natural number does (`countDown_iterate_toNat`). -/

namespace Sys2Proof.Machine

/-! ### The fault table (R171) -/

/-- R171: every info of the table fits the 16 bits of the fault record. -/
theorem faultOf_info_lt {i : Instr} {s : State} {c : FaultCause} {n : Nat} (h : faultOf i s = some (c, n)) :
    n < 65536 := by
  cases i
  case ret | call | drw | ldB | storeRegs | loadRegs | skp | sknp =>
    simp only [faultOf, Option.ite_none_right_eq_some, Option.some.injEq, Prod.mk.injEq] at h
    obtain ⟨-, -, rfl⟩ := h
    omega
  all_goals cases h

/-- Settles O38: an instruction in the table takes its fault, whose info fits the record, and any other
completes. -/
theorem faultsExactlyWhereTheTableSays : Obligations.FaultsExactlyWhereTheTableSays := by
  intro i s
  split
  next hf => exact exists_exec_eq_faultTaken hf (faultOf_info_lt hf)
  next hf =>
    obtain ⟨t, ht, completed⟩ := exec_of_faultOf_none hf
    exact ⟨t, ht, completed.status, completed.faultCause, completed.faultInfo, completed.faultIpc⟩

/-! ### FAULTED until reset (R174) -/

/-- `t` is FAULTED, with the fault record, PC, registers and timers of `s`: what R174 freezes. -/
structure FrozenLike (s t : State) : Prop where
  status : t.status = .faulted
  faultCause : t.faultCause = s.faultCause
  faultInfo : t.faultInfo = s.faultInfo
  faultIpc : t.faultIpc = s.faultIpc
  pc : t.pc = s.pc
  v : t.v = s.v
  dt : t.dt = s.dt
  st : t.st = s.st

namespace FrozenLike

theorem refl {s : State} (faulted : s.status = .faulted) : FrozenLike s s :=
  ⟨faulted, rfl, rfl, rfl, rfl, rfl, rfl, rfl⟩

/-- R194: a load writes memory only. -/
theorem load {s u : State} (h : FrozenLike s u) (p : Program) : FrozenLike s (load p u) := by
  unfold Machine.load
  split
  · obtain ⟨hstatus, hcause, hinfo, hipc, hpc, hv, hdt, hst⟩ := h
    constructor <;> simpa
  · exact h

theorem deliver {e : Event} {s u t : State} (h : FrozenLike s u) (noReset : e ≠ .reset)
    (ht : deliver e u = .next t) : FrozenLike s t := by
  cases e with
  | reset => exact absurd rfl noReset
  | load p => cases ht; exact h.load p
  | step => cases (step_of_faulted h.status).symm.trans ht; exact h
  | tick => cases ht; rwa [tick_of_faulted h.status]
  | setKey | ackRedraw => cases ht; exact { h with }

theorem runEvents {es : List Event} {s u t : State} (h : FrozenLike s u) (noReset : .reset ∉ es)
    (ht : runEvents es u = .next t) : FrozenLike s t := by
  induction es generalizing u with
  | nil => cases ht; exact h
  | cons e es ih =>
    obtain ⟨w, hw, ht⟩ := runEvents_cons_eq_next.1 ht
    exact ih (h.deliver (List.ne_of_not_mem_cons noReset).symm hw) (List.not_mem_of_not_mem_cons noReset) ht

end FrozenLike

/-- Settles O8: step and tick are the identity in a FAULTED state, and every run without a reset ends
`FrozenLike` its start. -/
theorem faultedMachineStaysFaultedUntilReset : Obligations.FaultedMachineStaysFaultedUntilReset := by
  intro s faulted
  refine ⟨step_of_faulted faulted, stepReport_of_faulted faulted, tick_of_faulted faulted,
    fun k b => by rw [keyDown_setKey, if_pos rfl], rfl, fun es noReset => ?_⟩
  obtain ⟨t, ht⟩ := exists_runEvents_eq_next es s
  have frozen : FrozenLike s t := (FrozenLike.refl faulted).runEvents noReset ht
  exact ⟨t, ht, frozen.status, frozen.faultCause, frozen.faultInfo, frozen.faultIpc, frozen.pc, frozen.v,
    frozen.dt, frozen.st⟩

/-! ### Ticks (R180) -/

theorem setTimers_sameExcept (s : State) (dt st : Byte) :
    SameExcept [.dt, .st] s (setSt (setDt s dt) st) :=
  ((SameExcept.refl _ s).setDt (by simp) dt).setSt (by simp) st

theorem countDown_toNat_eq_ite (t : Byte) :
    (countDown t).toNat = if 0 < t.toNat then t.toNat - 1 else 0 := by
  rw [countDown_toNat]
  split <;> omega

theorem countDown_iterate_toNat (n : Nat) (t : Byte) : (countDown^[n] t).toNat = t.toNat - n := by
  induction n generalizing t with
  | zero => rfl
  | succ n ih => rw [Function.iterate_succ_apply, ih, countDown_toNat, Nat.sub_sub, Nat.add_comm]

theorem deliver_tick_of_running {s : State} (running : s.status = .running) :
    deliver .tick s = .next (setSt (setDt s (countDown s.dt)) (countDown s.st)) :=
  congrArg Host.Outcome.next (tick_of_running running)

/-- R180: ticks in a row act on the two timers only, and on each by itself. -/
theorem runEvents_replicate_tick (n : Nat) {s : State} (running : s.status = .running) :
    runEvents (List.replicate n .tick) s =
      .next (setSt (setDt s (countDown^[n] s.dt)) (countDown^[n] s.st)) := by
  induction n generalizing s with
  | zero => rfl
  | succ n ih =>
    rw [List.replicate_succ, runEvents, deliver_tick_of_running running]
    exact ih running

/-- Settles O54: a RUNNING machine's tick is one `countDown` of each timer, and a FAULTED one's changes
nothing. -/
theorem tickCountsBothTimersDown : Obligations.TickCountsBothTimersDown :=
  ⟨fun s running => ⟨_, deliver_tick_of_running running, countDown_toNat_eq_ite s.dt,
      countDown_toNat_eq_ite s.st, setTimers_sameExcept s _ _⟩,
    fun _ faulted => congrArg Host.Outcome.next (tick_of_faulted faulted), fun _ => rfl⟩

/-- Settles O55: `n` ticks are `n` times `countDown` on each timer. -/
theorem timersRunDownAndStayAtZero : Obligations.TimersRunDownAndStayAtZero :=
  fun n s running => ⟨_, runEvents_replicate_tick n running, countDown_iterate_toNat n s.dt,
    countDown_iterate_toNat n s.st, setTimers_sameExcept s _ _⟩

end Sys2Proof.Machine
end

section
/-! PROOFS. The call stack and the jump by V0 (O11 to O13, O16; 41_control_transfer.md R100, R102, R107).
With an entry in use 00EE is `popPc`, with one free 2NNN is `push` and then `setPc`; that a return undoes
a call (S7) puts the two together. -/

namespace Sys2Proof.Machine

/-- R100: with an entry in use, 00EE pops it. -/
theorem exec_ret_eq_popPc {s : State} {k : Fin 16} (hsp : s.sp.val = k.val + 1) :
    exec .ret s = .next (popPc s) :=
  if_neg (by omega)

/-- R102: with an entry free, 2NNN pushes PC and jumps. -/
theorem exec_call_eq_push {s : State} (nnn : Addr) (hsp : s.sp.val < 16) :
    exec (.call nnn) s = .next (setPc (push s s.pc) (zext16 nnn)) :=
  if_neg hsp.ne

/-- R107, D28: NNN + V0 is at most 0x10FE, so nothing is lost in 16 bits. -/
theorem zext16_add_zext16_toNat (nnn : Addr) (b : Byte) :
    (zext16 nnn + zext16 b).toNat = nnn.toNat + b.toNat := by
  bv_omega

/-- Settles O11: `popPc_spec` where the stack holds an entry, the fault of R171 where it holds none. -/
theorem returnPopsThePc : Obligations.ReturnPopsThePc := by
  refine ⟨decode_of_hits .ret, fun s k hsp => ?_, fun s empty => ?_⟩
  · obtain ⟨hk, hpc⟩ := popPc_spec s k hsp
    exact ⟨popPc s, exec_ret_eq_popPc hsp, hk, hpc, (SameExcept.refl _ s).popPc (by simp) (by simp)⟩
  · exact exists_exec_eq_faultTaken (if_pos empty) (by decide)

/-- Settles O12: `push_spec` where the stack has room, the fault of R171 where it is full. -/
theorem callPushesThePc : Obligations.CallPushesThePc := by
  refine ⟨decode_of_hits (.call 0), fun nnn s k hsp => ?_, fun nnn s full => ?_⟩
  · have room : s.sp.val < 16 := hsp ▸ k.isLt
    obtain ⟨hsp', hstack⟩ := push_spec s s.pc room
    refine ⟨_, exec_call_eq_push nnn room, hsp' ▸ congrArg (· + 1) hsp, ?_, fun j hj => ?_,
      BitVec.toNat_setWidth_of_le (by decide),
      ((SameExcept.refl _ s).push (by simp) (by simp) _).setPc (by simp) _⟩
    · rw [stackEntry_setPc, hstack, if_pos hsp.symm]
    · rw [stackEntry_setPc, hstack, if_neg fun e => hj (Fin.ext (e.trans hsp))]
  · exact exists_exec_eq_faultTaken (if_pos full) (by decide)

/-- Settles O13: the return pops the entry that the call pushed. -/
theorem callThenReturnComesBack : Obligations.CallThenReturnComesBack := by
  intro nnn s t u room hcall hsp hstack
  cases (exec_call_eq_push nnn room).symm.trans hcall
  obtain ⟨pushed, entry⟩ := push_spec s s.pc room
  have hu : u.sp.val = s.sp.val + 1 := (congrArg Fin.val hsp).trans pushed
  obtain ⟨popped, hpc⟩ := popPc_spec u ⟨s.sp.val, room⟩ hu
  refine ⟨popPc u, exec_ret_eq_popPc (k := ⟨s.sp.val, room⟩) hu, ?_, Fin.ext popped⟩
  rw [hpc, hstack, stackEntry_setPc, entry, if_pos rfl]

/-- Settles O16: the instruction is one `setPc`, of a sum that fits in 16 bits. -/
theorem jumpPlusV0AddsWithoutMask : Obligations.JumpPlusV0AddsWithoutMask :=
  ⟨decode_of_hits (.jpV0 0), fun nnn s =>
    ⟨_, rfl, zext16_add_zext16_toNat nnn (readV s 0), exec_sameExcept (i := .jpV0 nnn) rfl⟩⟩

end Sys2Proof.Machine
end

section
/-! PROOFS. Subtractions, random byte and the addition to I (O22, O25, O27; 42_alu.md R127, R129, R132;
43_index_memory.md R141). -/

namespace Sys2Proof.Machine

/-- R127, D20: not-borrow is 1 exactly when the minuend is not the smaller one. -/
theorem noBorrow_toNat (a b : Byte) :
    (flagByte (noBorrow a b)).toNat = if b.toNat ≤ a.toNat then 1 else 0 := by
  simp only [flagByte_toNat, noBorrow, decide_eq_true_eq]

/-- R127: a difference of bytes is modulo 256. -/
theorem byte_sub_toNat (a b : Byte) : (a - b).toNat = (a.toNat + 256 - b.toNat) % 256 := by
  bv_omega

/-- R141: the sum is modulo 65536. -/
theorem add_zext16_toNat (w : Word) (b : Byte) : (w + zext16 b).toNat = (w.toNat + b.toNat) % 65536 := by
  bv_omega

/-- Settles O22: the result is the difference of two bytes, the flag its not-borrow; 8XY7 exchanges the
operands of 8XY5. -/
theorem subtractionsWriteDifferenceThenNotBorrow : Obligations.SubtractionsWriteDifferenceThenNotBorrow :=
  ⟨decode_of_hits (.subReg 0 0), decode_of_hits (.subnReg 0 0), fun _ _ _ =>
    ⟨exists_exec_eq_writeResultThenFlag rfl (noBorrow_toNat _ _) (byte_sub_toNat _ _),
      exists_exec_eq_writeResultThenFlag rfl (noBorrow_toNat _ _) (byte_sub_toNat _ _)⟩⟩

/-- Settles O25: VX is the drawn byte AND NN, so a 0 bit of NN is a 0 bit of VX, and the draw is counted. -/
theorem randomByteIsMasked : Obligations.RandomByteIsMasked := by
  refine ⟨decode_of_hits (.rnd 0 0), fun x nn s => ?_⟩
  have hx : readV (countDraw (writeV s x (drawnByte s &&& nn))) x = Config.freeByte s.draws &&& nn :=
    readV_writeV_same s x _
  refine ⟨_, rfl, hx, fun k hk => ?_, rfl, exec_sameExcept (i := .rnd x nn) rfl⟩
  rw [hx, BitVec.getLsbD_and, hk, Bool.and_false]

/-- Settles O27: the instruction is one write of I. -/
theorem addIndexWrapsAtSixteenBits : Obligations.AddIndexWrapsAtSixteenBits :=
  ⟨decode_of_hits (.addI 0), fun x s => exists_exec_eq_setI rfl (add_zext16_toNat s.I (readV s x))⟩

end Sys2Proof.Machine
end

section
/-! PROOFS. The blocks at I (O28 to O30; 43_index_memory.md R143 to R145; 20_memory.md R56). A block stored
inside memory holds its bytes (`readByte_storeBytes_add`) and leaves every other address as it was
(`readByte_storeBytes_outside`); FX33 and FX55 are one such block each. -/

namespace Sys2Proof.Machine

/-! ### What a stored block reads as -/

section
variable {s : State} {a : Nat} {bs : List Byte} (hm : s.memoryCanonical) (inside : a + bs.length ≤ 4096)
include hm inside

/-- The byte at offset `k` of a stored block is its byte `k`. -/
theorem readByte_storeBytes_add {k : Nat} (hk : k < bs.length) :
    readByte (storeBytes s a bs) (a + k) = bs[k] := by
  rw [readByte_storeBytes bs s a _ hm inside, if_pos (Nat.le_add_right a k), Nat.add_sub_cancel_left,
    List.getD_eq_getElem _ _ hk]

/-- A stored block leaves the bytes below it and beyond it. -/
theorem readByte_storeBytes_outside {i : Nat} (hi : i < a ∨ a + bs.length ≤ i) :
    readByte (storeBytes s a bs) i = readByte s i := by
  rw [readByte_storeBytes bs s a i hm inside]
  obtain below | beyond := hi
  · exact if_neg (Nat.not_le.2 below)
  · rw [if_pos (by omega), List.getD_eq_default _ _ (by omega)]

end

/-- R144, R145: FX55 and FX65 advance I by X + 1, modulo 65536. -/
theorem stepI_I_toNat (s : State) (x : Nibble) :
    (stepI s x).I.toNat = (s.I.toNat + x.toNat + 1) % 65536 := by
  rw [stepI_I]
  bv_omega

/-- R143: the byte at I + k is the decimal digit `k`, where a byte holds that digit whole. -/
theorem readByte_complete_ldB_toNat {s : State} {x : Nibble} {k n : Nat} (hm : s.memoryCanonical)
    (inside : s.I.toNat + 2 < 4096) (hk : k < 3)
    (hn : (decimalDigits (readV s x))[k] = BitVec.ofNat 8 n) (fits : n < 256) :
    (readByte (complete (.ldB x) s) (s.I.toNat + k)).toNat = n := by
  have hbyte : readByte (complete (.ldB x) s) (s.I.toNat + k) = BitVec.ofNat 8 n :=
    (readByte_storeBytes_add hm inside hk).trans hn
  rw [hbyte]
  exact Nat.mod_eq_of_lt fits

/-- R145: FX65 leaves the registers above VX. -/
theorem readV_complete_loadRegs_above {s : State} {x r : Nibble} (above : x.toNat < r.toNat) :
    readV (complete (.loadRegs x) s) r = readV s r := by
  have hlen : (blockAtI s (x.toNat + 1)).length = x.toNat + 1 := blockAtI_length s _
  rw [complete, readV_stepI, readV_writeRegs _ _ _ _ (by omega), if_pos (Nat.zero_le _),
    List.getD_eq_default _ _ (by omega)]

/-! ### The statements -/

/-- Settles O28: the three digits are the block stored at I, and a byte holds each digit whole. -/
theorem decimalDigitsAreStored : Obligations.DecimalDigitsAreStored := by
  refine ⟨decode_of_hits (.ldB 0), fun x s hm inside => ?_, fun x s outside => ?_⟩
  · have hblock : s.I.toNat + (decimalDigits (readV s x)).length ≤ 4096 := inside
    have hv := (readV s x).isLt
    exact ⟨_, exec_eq_complete (if_neg (Nat.not_le.2 inside)),
      readByte_complete_ldB_toNat hm inside (k := 0) (by decide) rfl (by omega),
      readByte_complete_ldB_toNat hm inside (k := 1) (by decide) rfl (by omega),
      readByte_complete_ldB_toNat hm inside (k := 2) (by decide) rfl (by omega),
      fun a ha => readByte_storeBytes_outside hm hblock ha,
      (SameExcept.refl _ s).storeBytes (by simp) _ _⟩
  · exact exists_exec_eq_faultTaken (if_pos outside) s.I.isLt

/-- Settles O29: the registers V0 to VX are the block stored at I. -/
theorem storeRegistersWritesTheBlock : Obligations.StoreRegistersWritesTheBlock := by
  refine ⟨decode_of_hits (.storeRegs 0), fun x s hm inside => ?_, fun x s outside => ?_⟩
  · have hlen := regsUpTo_length s x
    refine ⟨_, exec_eq_complete (if_neg (Nat.not_le.2 inside)),
      fun r hr => readByte_complete_storeRegs hm inside hr,
      fun a ha => readByte_storeBytes_outside hm (by omega) (by omega), ?_,
      ((SameExcept.refl _ s).storeBytes (by simp) _ _).setI (by simp) _⟩
    rw [complete, stepI_I_toNat, storeBytes_I]
  · exact exists_exec_eq_faultTaken (if_pos outside) s.I.isLt

/-- Settles O30: the block at I is loaded into V0 to VX. -/
theorem loadRegistersReadsTheBlock : Obligations.LoadRegistersReadsTheBlock := by
  refine ⟨decode_of_hits (.loadRegs 0), fun x s inside => ?_, fun x s outside => ?_⟩
  · refine ⟨_, exec_eq_complete (if_neg (Nat.not_le.2 inside)), fun r hr => readV_complete_loadRegs hr,
      fun r above => readV_complete_loadRegs_above above, ?_,
      ((SameExcept.refl _ s).writeRegs fun j hj => ?_).setI (by simp) _⟩
    · rw [complete, stepI_I_toNat, writeRegs_I]
    · rw [Nat.zero_add, blockAtI_length] at hj
      exact List.mem_append_right _ (List.mem_map.2 ⟨j, List.mem_range.2 hj, rfl⟩)
  · exact exists_exec_eq_faultTaken (if_pos outside) s.I.isLt

end Sys2Proof.Machine
end

section
/-! PROOFS. Reset, load, and the end of memory (O7, O53, O57, O58; 70_reset_and_hazards.md R191, R193 to
R195). A program that fits is one block stored at 0x200, where PC stands after reset; a machine that walks
through zero words (`runEvents_replicate_step_of_zeros`) comes to 0x1000, where no fetch is possible. -/

namespace Sys2Proof.Machine

/-! ### The fetch fault (R54) -/

/-- Settles O7: the step takes the fetch fault before the increment, and reports it. -/
theorem fetchBeyondMemoryFaults : Obligations.FetchBeyondMemoryFaults :=
  fun s running outside =>
    ⟨_, step_of_fetch_outside running outside,
      ⟨rfl, rfl, rfl, rfl, (SameExcept.refl _ s).takeFault (by simp) _ _ _⟩, rfl,
      stepReport_of_fetch_outside running outside⟩

/-! ### Load (R194, R195) -/

theorem wellFormed_iff (p : Program) : p.wellFormed = true ↔ p.length ≤ 3584 := decide_eq_true_iff

theorem romTooLarge_iff (p : Program) : romTooLarge p = true ↔ 3584 < p.length := by
  rw [romTooLarge, Bool.not_eq_true', ← Bool.not_eq_true, wellFormed_iff, Nat.not_le]

/-- R194: a program that fits is stored as one block. -/
theorem load_of_fits {p : Program} (fits : p.length ≤ 3584) (s : State) :
    load p s = storeBytes s 0x200 p :=
  if_pos ((wellFormed_iff p).2 fits)

/-- R195, D30: a program that does not fit is refused whole. -/
theorem load_of_too_large {p : Program} (large : 3584 < p.length) (s : State) : load p s = s :=
  if_neg (mt (wellFormed_iff p).1 (Nat.not_le.2 large))

/-- Settles O57: the block of a program that fits ends within memory. -/
theorem loadCopiesTheProgramOrRefusesIt : Obligations.LoadCopiesTheProgramOrRefusesIt := by
  refine fun p s hm => ⟨fun fits => ?_, fun large => ?_⟩
  · have inside : 0x200 + p.length ≤ 4096 := by omega
    exact ⟨Bool.eq_false_iff.2 (mt (romTooLarge_iff p).1 (Nat.not_lt.2 fits)), _,
      congrArg Host.Outcome.next (load_of_fits fits s),
      fun i hi => readByte_storeBytes_add hm inside hi,
      fun a ha => readByte_storeBytes_outside hm inside ha,
      (SameExcept.refl _ s).storeBytes (by simp) _ _⟩
  · exact ⟨(romTooLarge_iff p).2 large, congrArg Host.Outcome.next (load_of_too_large large s)⟩

/-! ### The first step (R191) -/

/-- R190, R194: where reset and then a load of a program that fits lead. -/
theorem runEvents_reset_load {p : Program} (fits : p.length ≤ 3584) (s : State) :
    runEvents [.reset, .load p] s = .next (storeBytes (resetEvent s) 0x200 p) :=
  congrArg Host.Outcome.next (load_of_fits fits _)

/-- R53, R191: the first word fetched is the program's first two bytes. -/
theorem fetchWord_storeBytes_resetEvent (s : State) {hi lo : Byte} {rest : Program}
    (fits : (hi :: lo :: rest).length ≤ 3584) :
    fetchWord (storeBytes (resetEvent s) 0x200 (hi :: lo :: rest)) = hi ++ lo := by
  have hm : (resetEvent s).memoryCanonical := (resetEvent_invariants s).memory
  have inside : 0x200 + (hi :: lo :: rest).length ≤ 4096 := by omega
  have hpc : (storeBytes (resetEvent s) 0x200 (hi :: lo :: rest)).pc.toNat = 0x200 := by
    rw [storeBytes_pc]; rfl
  rw [fetchWord, hpc]
  exact congrArg₂ wordOf (readByte_storeBytes_add (k := 0) hm inside (by simp))
    (readByte_storeBytes_add (k := 1) hm inside (by simp))

theorem advancePc_of_pc_eq {t : State} (hpc : t.pc = 0x200) : advancePc t = { t with pc := 0x202 } := by
  rw [advancePc, hpc]; rfl

/-- Settles O53: the state after the load is RUNNING at 0x200 and fetches the program's first word. -/
theorem firstStepAfterLoadFetchesFrom0x200 : Obligations.FirstStepAfterLoadFetchesFrom0x200 := by
  intro s hi lo rest fits
  refine ⟨_, runEvents_reset_load fits s, ?_⟩
  have hfetch := fetchWord_storeBytes_resetEvent s fits
  have running : (storeBytes (resetEvent s) 0x200 (hi :: lo :: rest)).status = .running :=
    storeBytes_status _ _ _
  have hpc : (storeBytes (resetEvent s) 0x200 (hi :: lo :: rest)).pc = 0x200 := storeBytes_pc _ _ _
  generalize storeBytes (resetEvent s) 0x200 (hi :: lo :: rest) = t at hfetch running hpc
  have inside : t.pc.toNat ≤ 0xFFE := by rw [hpc]; decide
  rw [← hfetch, ← advancePc_of_pc_eq hpc]
  exact ⟨hpc, fun _ => step_eq_exec running inside, step_of_decode_none running inside⟩

/-! ### Running off the end (R193) -/

theorem decode_zero : decode 0 = none := by decide

/-- R193: zero words are no-ops, so that steps in a row only advance PC, here to the end of memory. -/
theorem runEvents_replicate_step_of_zeros (k : Nat) {s : State} (running : s.status = .running)
    (hpc : s.pc.toNat + 2 * k = 0x1000)
    (zeros : ∀ a, s.pc.toNat ≤ a → a < 4096 → readByte s a = 0) :
    runEvents (List.replicate k .step) s = .next (setPc s 0x1000) := by
  induction k generalizing s with
  | zero =>
    have hend : s.pc = 0x1000 := BitVec.eq_of_toNat_eq hpc
    rw [← hend]; rfl
  | succ k ih =>
    have inside : s.pc.toNat ≤ 0xFFE := by omega
    have hfetch : fetchWord s = 0 := by
      rw [fetchWord, zeros _ (by omega) (by omega), zeros _ (by omega) (by omega)]; rfl
    have hstep : step s = .next (advancePc s) :=
      step_of_decode_none running inside (hfetch ▸ decode_zero)
    have hnext := advancePc_pc_toNat inside
    rw [List.replicate_succ, runEvents, deliver, hstep]
    exact ih (s := advancePc s) running (by omega) fun a ha => zeros a (by omega)

/-- Settles O58: the machine walks to 0x1000, and there the fetch fault is taken. -/
theorem runningOffTheEndFaults : Obligations.RunningOffTheEndFaults := by
  intro k s running hpc zeros
  refine ⟨takeFault .fetchOob 0x1000 0x1000 (setPc s 0x1000), ?_, rfl, rfl, rfl, rfl, rfl,
    ((SameExcept.refl _ s).setPc (by simp) _).takeFault (by simp) _ _ _⟩
  rw [List.replicate_succ', runEvents_append (runEvents_replicate_step_of_zeros k running hpc zeros)]
  have outside : 0xFFE < (0x1000 : Word).toNat := by decide
  exact runEvents_cons_eq_next.2 ⟨_, step_of_fetch_outside (s := setPc s 0x1000) running outside, rfl⟩

end Sys2Proof.Machine
end
